-- ==== Sys2Proof/Word.lean ====
section
/-! DEFINITION. The word types of the CTQ block, one name per data format or register width the spec
fixes (`00_scope.md` R7, R8; `30_encoding.md` R80 to R84). All quantities are unsigned. -/

namespace Sys2Proof

/-- One byte of an output memory, and one 8-bit colour channel (R7 `CHW`). -/
abbrev Byte := BitVec 8

/-- A slot index of the palette, as wide as a pixel-stream element (R82; R7 `IDXW`). -/
abbrev Slot := BitVec 8

/-- The 16-bit field that stores a 15-bit HardwareColor (R81; R7 `HCF`). -/
abbrev HardwareColor := BitVec 16

/-- A command word of `CMDW` = 40 bits (R84). -/
abbrev CommandWord := BitVec 40

/-- A grid dimension in pixels, `DIMW` = 16 bits (R25, R88). -/
abbrev Dim := BitVec 16

/-- A capacity or a count of slots, 9 bits (R21, R22, R86). -/
abbrev Capacity := BitVec 9

end Sys2Proof
end

