-- ==== Sys2Proof/Config.lean ====
section
/-! DEFINITION. What is fixed for the machine: the implementation parameters of `00_scope.md` R7 as one
record with this hardware's values, and the one free value the spec leaves open
(`93_implementation_defined.md` U2). -/

namespace Sys2Proof

/-- The parameter table of R7: configuration, not state. -/
structure Config where
  /-- bits per TrueColor channel (`CHW`) -/
  chw : Nat
  /-- bits per HardwareColor channel (`QW`) -/
  qw : Nat
  /-- low bits discarded per channel (`DROP`) -/
  drop : Nat
  /-- significant bits of a HardwareColor (`HCW`) -/
  hcw : Nat
  /-- bits of the field a HardwareColor is stored in (`HCF`) -/
  hcf : Nat
  /-- bits of a pixel-stream element (`IDXW`) -/
  idxw : Nat
  /-- tile edge in pixels (`TILE`) -/
  tile : Nat
  /-- capacity of the table that ENCODE builds (`MODE_CAP`) -/
  modeCap : Nat
  /-- largest capacity PNEW accepts (`CAP_MAX`) -/
  capMax : Nat
  /-- bits of a grid dimension (`DIMW`) -/
  dimw : Nat
  /-- bits of a command word (`CMDW`) -/
  cmdw : Nat
  deriving DecidableEq, Repr

/-- The values of R7's third column: the configuration of this hardware. -/
def Config.ctq : Config where
  chw := 8
  qw := 5
  drop := 3
  hcw := 15
  hcf := 16
  idxw := 8
  tile := 8
  modeCap := 256
  capMax := 256
  dimw := 16
  cmdw := 40

@[simp] theorem Config.ctq_drop : Config.ctq.drop = 3 := rfl
@[simp] theorem Config.ctq_tile : Config.ctq.tile = 8 := rfl
@[simp] theorem Config.ctq_modeCap : Config.ctq.modeCap = 256 := rfl
@[simp] theorem Config.ctq_capMax : Config.ctq.capMax = 256 := rfl

/-- The constraints R7 lets a model assume of any instantiation. -/
abbrev Config.Sound (c : Config) : Prop :=
  c.qw + c.drop = c.chw ∧ c.hcw = 3 * c.qw ∧ c.hcw ≤ c.hcf ∧
    c.modeCap ≤ c.capMax ∧ c.capMax ≤ 2 ^ c.idxw ∧ 1 ≤ c.tile

/-- FREE VALUE (log entry 6). What a physical entry of `REV` holds that nothing has written: the spec gives
its contents as unspecified (R30, U2 "any value"). No body: nothing can be proved of its value, and no
reachable state reads it. -/
opaque Config.freeRevEntry : Nat → HardwareColor

end Sys2Proof
end

