-- ==== Sys2Proof/Syntax.lean ====
section
/-! DEFINITION. The commands of the block as syntax: one constructor of `Instr` per row of
`spec/opcode_table.json` (`30_encoding.md` R90), and the two pseudo-instructions of R102. -/

namespace Sys2Proof

/-- A TrueColor as its four named channels (R80); R58 asks a model to carry it so and to use the word layout
only at the command-encoding boundary. -/
structure TrueColor where
  r : Byte
  g : Byte
  b : Byte
  a : Byte
  deriving DecidableEq, Repr

/-- The five commands of the opcode map (R90). -/
inductive Instr where
  /-- `QUANT (R,G,B,A)`, format C (R85, R110) -/
  | quant (c : TrueColor)
  /-- `PNEW cap`, format N (R86, R121) -/
  | pnew (cap : Capacity)
  /-- `PLKI (R,G,B,A)`, format C (R85, R125) -/
  | plki (c : TrueColor)
  /-- `PSER`, format Z (R87, R131) -/
  | pser
  /-- `ENCODE w, h`, format D (R88, R150) -/
  | encode (w : Dim) (h : Dim)
  deriving DecidableEq, Repr

/-- The pseudo-instructions of R102: fixed expansions a host library may offer, with no word of their own. -/
inductive Pseudo where
  /-- `CONVERT w, h`: ENCODE, then PSER if the ENCODE's response is Ok -/
  | convert (w : Dim) (h : Dim)
  /-- `PNEW256`: PNEW 256 -/
  | pnew256
  deriving DecidableEq, Repr

end Sys2Proof
end

