-- ==== Sys2Proof/Machine/State.lean ====
section
/-! DEFINITION. The state of the block as plain data (`10_state.md` R20), the host's side of it (the grid, the
commands it has yet to issue, the responses it has been given, the reset input), the reasons a step can
stop, and the reset state (R39). -/

namespace Sys2Proof.Machine

open Sys2Proof

/-- A sparse space: its listed entries by key, keys strictly rising. An unlisted key holds nothing
(`storeRead` answers `none`), so no entry can equal what an unlisted key reads as. -/
abbrev Store (α : Type) := List (Nat × α)

/-- A byte-addressed space (`OUT`, `PBUF`; `20_memory.md` R54, R55): offsets and bytes. A byte that is not
listed does not exist (U1). -/
abbrev Memory := List Host.Cell

/-- The input pixel grid (R52): the list of its rows, top to bottom, each the list of its pixels, left to
right (log entry 3). -/
abbrev Grid := List (List TrueColor)

/-- The five values of `STATUS.ERR` (R24, R190); U9: the type has exactly five. -/
inductive ErrCode where
  | ok
  | dimensionError
  | capacityExceeded
  | tooManyColors
  | illegalCommand
  deriving DecidableEq, Repr

/-- The four failures the block raises (R190). -/
inductive Failure where
  | dimensionError
  | capacityExceeded
  | tooManyColors
  | illegalCommand
  deriving DecidableEq, Repr

/-- The palette table (R21, R22, R29, R30). -/
structure PaletteTable where
  /-- `CAP`, 9 bits (R21) -/
  cap : Capacity
  /-- `NEXT_FREE`, 9 bits (R22) -/
  nextFree : Capacity
  /-- `FWD`: HardwareColor (15 bits, as a number) to slot; an unlisted colour is `None` (R29) -/
  fwd : Store Slot
  /-- `REV`: slot to 16-bit HardwareColor field; an unlisted slot holds no architectural value (R30) -/
  rev : Store HardwareColor
  deriving DecidableEq, Repr

/-- `POS`, the position of the tile walk (R27). -/
structure Pos where
  /-- `TROW`, 13 bits -/
  trow : BitVec 13
  /-- `TCOL`, 13 bits -/
  tcol : BitVec 13
  /-- `SROW`, 3 bits -/
  srow : BitVec 3
  /-- `SCOL`, 3 bits -/
  scol : BitVec 3
  deriving DecidableEq, Repr

/-- The fields of `STATUS` (R24, R28); `statusWord` is the 16-bit register the host reads. -/
structure Status where
  /-- `ERR`, bits 2:0 -/
  err : ErrCode
  /-- `OVALID`, bit 3 -/
  ovalid : Bool
  /-- `PVALID`, bit 4 -/
  pvalid : Bool
  /-- `BUSY`, bit 5 -/
  busy : Bool
  deriving DecidableEq, Repr

/-- A response: the code and the 16-bit value every accepted command completes with (R91). -/
structure Response where
  code : ErrCode
  value : BitVec 16
  deriving DecidableEq, Repr

/-- A command the host issues: the word, and the grid it has ready for `GridRead` when it issues it
(R53, R240, R248). -/
structure Request where
  word : CommandWord
  grid : Grid
  deriving DecidableEq, Repr

/-- The whole state: the tuple of R20, then the host's side (log entries 2, 3, 5, 8). -/
structure State where
  /-- `CAP`, `NEXT_FREE`, `FWD`, `REV` -/
  table : PaletteTable
  /-- `W`, 16 bits (R25) -/
  w : Dim
  /-- `H`, 16 bits (R25) -/
  h : Dim
  /-- `POS` (R27) -/
  pos : Pos
  /-- `OCNT`, 32 bits (R26) -/
  ocnt : BitVec 32
  /-- `OUT` (R54) -/
  out : Memory
  /-- `PBUF` (R55) -/
  pbuf : Memory
  /-- `PLEN`, 10 bits (R31) -/
  plen : BitVec 10
  /-- `RESULT`, 16 bits (R23) -/
  result : BitVec 16
  /-- `STATUS` (R24) -/
  status : Status
  /-- the host's side: the commands not yet issued, next first (R240, R248) -/
  port : List Request
  /-- the host's side: the grid now at the grid port (R52, R53) -/
  grid : Grid
  /-- the host's side: the reset input (R230, R231) -/
  resetPin : Bool
  /-- the host's side: the responses delivered so far, oldest first (R91, R248) -/
  responses : List Response
  deriving DecidableEq, Repr

/-- Reasons a step stops with a fault. The block's own failures (R190) are no faults: they are next states. -/
inductive Fault where
  /-- Raised by the sequencer when `BUSY = 1` and `OCNT > W × H`: R158 enables no step there. No reachable state
  is so. Safe (log entry 9). -/
  | sequencerStuck
  deriving DecidableEq, Repr

/-- Reasons a step is refused. -/
inductive Refusal where
  /-- Raised by `exec` for an instruction that has no meaning yet; no arm answers it now. Safe. -/
  | notModelled (mnemonic : String)
  /-- Raised by an ENCODE whose walk reads a position the host's grid does not define: the host broke the duty
  of R232, and U6 gives such a read no value. Safe (log entry 4). -/
  | gridUndefined (x y : Nat)
  deriving DecidableEq, Repr

/-- `POS = (0,0,0,0)` (R27). -/
def Pos.zero : Pos := ⟨0#13, 0#13, 0#3, 0#3⟩

/-- The state after reset: the table of R39, with the host's side empty. -/
def State.reset : State where
  table := { cap := BitVec.ofNat 9 Config.ctq.modeCap, nextFree := 0#9, fwd := [], rev := [] }
  w := 0#16
  h := 0#16
  pos := Pos.zero
  ocnt := 0#32
  out := []
  pbuf := []
  plen := 0#10
  result := 0x0000#16
  status := { err := .ok, ovalid := false, pvalid := false, busy := false }
  port := []
  grid := []
  resetPin := false
  responses := []

end Sys2Proof.Machine
end

