-- ==== Sys2Proof/Machine/Flags.lean ====
section
/-! DEFINITION. The `STATUS` register: the numbering of the result codes (`60_exceptions.md` R190), the word the
host reads (`10_state.md` R24), and the writes of its fields. No command reads a field of `STATUS` as an
operand. -/

namespace Sys2Proof.Machine

/-- The 3-bit code of a result (R190); 5 to 7 are never produced. -/
def errBits : ErrCode → BitVec 3
  | .ok => 0#3
  | .dimensionError => 1#3
  | .capacityExceeded => 2#3
  | .tooManyColors => 3#3
  | .illegalCommand => 4#3

/-- The result code that records a failure (R190, R195). -/
def failureCode : Failure → ErrCode
  | .dimensionError => .dimensionError
  | .capacityExceeded => .capacityExceeded
  | .tooManyColors => .tooManyColors
  | .illegalCommand => .illegalCommand

/-- The 16-bit `STATUS` word: `ERR` 2:0, `OVALID` 3, `PVALID` 4, `BUSY` 5, zeros in 15:6 (R24). -/
def statusWord (st : Status) : BitVec 16 :=
  0#10 ++ BitVec.ofBool st.busy ++ BitVec.ofBool st.pvalid ++ BitVec.ofBool st.ovalid ++ errBits st.err

/-- `STATUS.ERR <- code`. -/
def setErr (code : ErrCode) (s : State) : State :=
  { s with status := { s.status with err := code } }

/-- `STATUS.OVALID <- v`. -/
def setOvalid (v : Bool) (s : State) : State :=
  { s with status := { s.status with ovalid := v } }

/-- `STATUS.PVALID <- v`. -/
def setPvalid (v : Bool) (s : State) : State :=
  { s with status := { s.status with pvalid := v } }

/-- `STATUS.BUSY <- v` (R28). -/
def setBusy (v : Bool) (s : State) : State :=
  { s with status := { s.status with busy := v } }

end Sys2Proof.Machine
end

