-- ==== Sys2Proof/Machine/Operands.lean ====
section
/-! DEFINITION. Operand assembly (`30_encoding.md` R89): the field arithmetic inside the operations. No operand is
sign-extended or scaled at decode. -/

namespace Sys2Proof.Machine

/-- The truncated channel `(v >> DROP) & 0b11111`, placed in a HardwareColor field (R111). -/
def truncateChannel (v : Byte) : HardwareColor :=
  ((v >>> Config.ctq.drop) &&& 0b11111#8).setWidth 16

/-- The index of a HardwareColor in `FWD`: `hc[14:0]` as a number (R29, R124). -/
def colorIndex (hc : HardwareColor) : Nat := (hc.extractLsb' 0 15).toNat

/-- A dimension is an exact multiple of `TILE` (R151). -/
def tileAligned (d : Dim) : Bool := d.toNat % Config.ctq.tile == 0

/-- The tile count `d div TILE` of a dimension (R153). -/
def tileCount (d : Dim) : Nat := d.toNat / Config.ctq.tile

/-- The column of the pixel `POS` names, `TCOL×8 + SCOL` (R27, R154). -/
def pixelX (p : Pos) : Nat := p.tcol.toNat * Config.ctq.tile + p.scol.toNat

/-- The row of the pixel `POS` names, `TROW×8 + SROW` (R27, R154). -/
def pixelY (p : Pos) : Nat := p.trow.toNat * Config.ctq.tile + p.srow.toNat

/-- `W × H`, the full product (R165): the number of pixels of the current grid. -/
def pixelCount (s : State) : Nat := s.w.toNat * s.h.toNat

end Sys2Proof.Machine
end

