-- ==== Sys2Proof/Machine/Ops.lean ====
section
/-! DEFINITION. The operations every meaning is written over: reading and writing a space
(`00_scope.md` R9, `20_memory.md` R57), reading the grid (R52), the construction of a table
(`41_palette_table.md` R122), the response (R91), the ONE operation that raises a failure
(`60_exceptions.md` R195), and the reset input (`70_reset_and_hazards.md` R230, R231). There is no return from a
failure: R200 gives none and nothing to restore. -/

namespace Sys2Proof.Machine

/-- The value a space lists at a key; `none` where it lists nothing. -/
def storeRead {α : Type} : Store α → Nat → Option α
  | [], _ => none
  | (k', v) :: m, k => if k = k' then some v else storeRead m k

/-- Writing a key, keeping the keys in rising order. -/
def storeWrite {α : Type} : Store α → Nat → α → Store α
  | [], k, v => [(k, v)]
  | (k', v') :: m, k, v =>
    if k < k' then (k, v) :: (k', v') :: m
    else if k = k' then (k, v) :: m
    else (k', v') :: storeWrite m k v

/-- Every key of the space is at least `lo`, and the keys rise strictly. -/
def storeWfFrom {α : Type} : Nat → Store α → Bool
  | _, [] => true
  | lo, (k, _) :: m => decide (lo ≤ k) && storeWfFrom (k + 1) m

/-- The canonical form of a space: keys strictly rising. -/
def storeWf {α : Type} (m : Store α) : Bool := storeWfFrom 0 m

/-- The canonical form of a byte memory. -/
def Memory.wf (m : Memory) : Bool := storeWf m

/-- `MemWrite(space, addr, n, v)`: the `n` bytes of `v`, least significant at the lowest offset (R9, R57). -/
def memWrite : Memory → Nat → Nat → Nat → Memory
  | m, _, 0, _ => m
  | m, addr, n + 1, v => memWrite (storeWrite m addr (BitVec.ofNat 8 v)) (addr + 1) n (v / 256)

/-- `MemRead(space, addr, n)`: the `n`-byte little-endian value; `none` if a byte does not exist (R9, R57). -/
def memRead : Memory → Nat → Nat → Option Nat
  | _, _, 0 => some 0
  | m, addr, n + 1 =>
    match storeRead m addr, memRead m (addr + 1) n with
    | some b, some rest => some (b.toNat + 256 * rest)
    | _, _ => none

/-- `GridRead(x, y)`: the pixel in column `x` of row `y`; `none` where the grid is not defined (R52, U6). -/
def gridRead (g : Grid) (x y : Nat) : Option TrueColor :=
  match g[y]? with
  | some row => row[x]?
  | none => none

/-- `Construct(cap)`: the empty table of capacity `cap` (R122). -/
def construct (cap : Capacity) : PaletteTable :=
  { cap := cap, nextFree := 0#9, fwd := [], rev := [] }

/-- `MODE_CAP` as a capacity (R7). -/
def modeCapacity : Capacity := BitVec.ofNat 9 Config.ctq.modeCap

/-- The pixel stream is emptied: `OCNT <- 0`, `STATUS.OVALID <- 0` (R54). -/
def dropStream (s : State) : State :=
  setOvalid false { s with ocnt := 0#32, out := [] }

/-- The palette buffer is emptied: `PLEN <- 0`, `STATUS.PVALID <- 0` (R31, R55). -/
def dropPalette (s : State) : State :=
  setPvalid false { s with plen := 0#10, pbuf := [] }

/-- `respond code(value)`: the code is also left in `STATUS.ERR` (R91). -/
def respond (code : ErrCode) (value : BitVec 16) (s : State) : State :=
  setErr code { s with responses := s.responses ++ [{ code := code, value := value }] }

/-- A job is discarded: every piece of state at its reset value but `ERR` and `RESULT` (R157, R193). -/
def discardJob (s : State) : State :=
  setBusy false
    (dropPalette (dropStream
      { s with table := construct modeCapacity, w := 0#16, h := 0#16, pos := Pos.zero }))

/-- The state changes a failure makes besides its code: TooManyColors discards the job (R193), the other
three change nothing (R191, R192, R194). -/
def failureEffect : Failure → State → State
  | .dimensionError, s => s
  | .capacityExceeded, s => s
  | .tooManyColors, s => discardJob s
  | .illegalCommand, s => s

/-- `raise F`: the state changes of `F`, and the response (code of `F`, value 0). Nothing is saved and control goes
nowhere inside the block (R195, R196). -/
def raise (f : Failure) (s : State) : State :=
  respond (failureCode f) 0x0000#16 (failureEffect f s)

/-- The reset input: every piece of the block's state takes its value of R39, whatever it was doing, and no response
is delivered (R230, R231). The host's pending commands, its grid and the responses it has stay (log entry 8). -/
def applyReset (s : State) : State :=
  { State.reset with port := s.port, grid := s.grid, responses := s.responses }

end Sys2Proof.Machine
end

