-- ==== Sys2Proof/Machine/Quantizer.lean ====
section
/-! DEFINITION. The Color Quantizer (`40_quantizer.md`): the pure function `quantize` and the command QUANT. -/

namespace Sys2Proof.Machine

/-- `quantize(c) = r5 | (g5 << 5) | (b5 << 10)` in a 16-bit field; alpha is not read (R111, R114). -/
def quantize (c : TrueColor) : HardwareColor :=
  truncateChannel c.r ||| (truncateChannel c.g <<< 5) ||| (truncateChannel c.b <<< 10)

/-- QUANT (R110): `RESULT` and the response take the HardwareColor. -/
def execQuant (c : TrueColor) (s : State) : Host.Outcome State Fault Refusal :=
  .next (respond .ok (quantize c) { s with result := quantize c })

end Sys2Proof.Machine
end

