-- ==== Sys2Proof/Machine/Palette.lean ====
section
/-! DEFINITION. The Palette Table (`41_palette_table.md`): the internal functions `LookupOrInsert` and `Serialize`, and
the commands PNEW, PLKI and PSER. `Construct` stands in `Machine/Ops.lean`. -/

namespace Sys2Proof.Machine

/-- What `LookupOrInsert` answers: the slot of a colour that has one; the slot it gives a new colour, with the table
it then leaves; or the failure CapacityExceeded, the table as it was (R124). -/
inductive LookupResult where
  | hit (slot : Slot)
  | inserted (slot : Slot) (t : PaletteTable)
  | capacityExceeded
  deriving DecidableEq, Repr

/-- The insertion of a new colour at slot `NEXT_FREE`, in both maps at once (R124). -/
def insertColor (t : PaletteTable) (hc : HardwareColor) : PaletteTable :=
  { t with
    fwd := storeWrite t.fwd (colorIndex hc) (t.nextFree.setWidth 8)
    rev := storeWrite t.rev t.nextFree.toNat hc
    nextFree := t.nextFree + 1#9 }

/-- `LookupOrInsert(c)`: the hit test first, then the full test, then the insertion (R124). -/
def lookupOrInsert (t : PaletteTable) (c : TrueColor) : LookupResult :=
  match storeRead t.fwd (colorIndex (quantize c)) with
  | some slot => .hit slot
  | none =>
    if t.nextFree = t.cap then .capacityExceeded
    else .inserted (t.nextFree.setWidth 8) (insertColor t (quantize c))

/-- `REV[i]`: a listed entry's value; a physical entry nothing has written holds the free value (R30, U2; log entry
6). -/
def revEntry (t : PaletteTable) (i : Nat) : HardwareColor :=
  (storeRead t.rev i).getD (Config.freeRevEntry i)

/-- The 16-bit value `Serialize` writes for slot `i`: `REV[i]` if allocated, else 0x0000 (R130). -/
def slotValue (t : PaletteTable) (i : Nat) : HardwareColor :=
  if i < t.nextFree.toNat then revEntry t i else 0x0000#16

/-- `Serialize()`: `MemWrite(PBUF, 2i, 2, v)` for every slot `i` below `CAP` in ascending order (R130, R131). The buffer
is the written bytes and no others (log entry 15). -/
def serialize (t : PaletteTable) : Memory :=
  (List.range t.cap.toNat).foldl (fun m i => memWrite m (2 * i) 2 (slotValue t i).toNat) []

/-- PNEW (R121): a new table, both outputs emptied. -/
def execPnew (cap : Capacity) (s : State) : Host.Outcome State Fault Refusal :=
  .next (respond .ok 0x0000#16
    (dropPalette (dropStream { s with table := construct cap, w := 0#16, h := 0#16 })))

/-- PLKI (R125): a hit writes `RESULT`; an insertion also makes an earlier serialization stale; a new colour in a full
table raises CapacityExceeded. -/
def execPlki (c : TrueColor) (s : State) : Host.Outcome State Fault Refusal :=
  match lookupOrInsert s.table c with
  | .hit slot => .next (respond .ok (slot.setWidth 16) { s with result := slot.setWidth 16 })
  | .inserted slot t =>
    .next (respond .ok (slot.setWidth 16)
      (dropPalette { s with table := t, result := slot.setWidth 16 }))
  | .capacityExceeded => .next (raise .capacityExceeded s)

/-- PSER (R131): `PBUF` takes the serialization of the current table and becomes valid; `PLEN <- 2 × CAP`. -/
def execPser (s : State) : Host.Outcome State Fault Refusal :=
  .next (respond .ok 0x0000#16
    (setPvalid true
      { s with pbuf := serialize s.table, plen := BitVec.ofNat 10 (2 * s.table.cap.toNat) }))

end Sys2Proof.Machine
end

