-- ==== Sys2Proof/Machine/TileEncoder.lean ====
section
/-! DEFINITION. The Tile Encoder (`42_tile_encoder.md`) at both levels of `00_scope.md` R18: the command ENCODE as one atomic
transition with the loop nest of R150, and the sequencer's own steps (start, PIXSTEP, completion, abort; R152 to R158). -/

namespace Sys2Proof.Machine

/-- The start of an ENCODE whose dimensions passed: a fresh table, the dimensions latched, both outputs emptied
(R150, R152). -/
def startJob (w h : Dim) (s : State) : State :=
  dropPalette (dropStream { s with table := construct modeCapacity, w := w, h := h })

/-- `MemWrite(OUT, OCNT, 1, s); OCNT <- OCNT + 1` (R54, R154, R166). -/
def appendIndex (slot : Slot) (s : State) : State :=
  { s with out := memWrite s.out s.ocnt.toNat 1 slot.toNat, ocnt := s.ocnt + 1#32 }

/-- What visiting one pixel does: its index is appended; its colour is new and the table full; or the grid does not
define it. -/
inductive Visit where
  | appended (s : State)
  | full
  | noPixel
  deriving DecidableEq, Repr

/-- One pixel of the walk: `GridRead`, `LookupOrInsert`, and on success the append (R150, R154). -/
def visitPixel (x y : Nat) (s : State) : Visit :=
  match gridRead s.grid x y with
  | none => .noPixel
  | some c =>
    match lookupOrInsert s.table c with
    | .hit slot => .appended (appendIndex slot s)
    | .inserted slot t => .appended (appendIndex slot { s with table := t })
    | .capacityExceeded => .full

/-- The 64 positions `(x, y)` of one tile, rows then columns (the two inner loops of R150). -/
def tilePositions (trow tcol : Nat) : List (Nat × Nat) :=
  (List.range Config.ctq.tile).flatMap fun srow =>
    (List.range Config.ctq.tile).map fun scol =>
      (tcol * Config.ctq.tile + scol, trow * Config.ctq.tile + srow)

/-- The positions an ENCODE visits, in order: the loop nest of R150. -/
def walkOrder (w h : Dim) : List (Nat × Nat) :=
  (List.range (tileCount h)).flatMap fun trow =>
    (List.range (tileCount w)).flatMap fun tcol => tilePositions trow tcol

/-- How a walk ends: after its last pixel; at a pixel whose lookup failed, with the state before that pixel; or at a
pixel the grid does not define. -/
inductive WalkEnd where
  | finished (s : State)
  | full (s : State)
  | noPixel (x y : Nat)
  deriving DecidableEq, Repr

/-- The walk over a list of positions: the body of R150's loops, ended by a failing lookup. -/
def walkPixels : List (Nat × Nat) → State → WalkEnd
  | [], s => .finished s
  | (x, y) :: ps, s =>
    match visitPixel x y s with
    | .appended s' => walkPixels ps s'
    | .full => .full s
    | .noPixel => .noPixel x y

/-- What an ENCODE answers once its walk has ended: completion (R156), the abort (R157), or the refusal of a grid the host
left undefined. -/
def encodeResult : WalkEnd → Host.Outcome State Fault Refusal
  | .finished s => .next (respond .ok 0x0000#16 (setOvalid true s))
  | .full s => .next (raise .tooManyColors s)
  | .noPixel x y => .refused (.gridUndefined x y)

/-- The dimension check: each dimension separately an exact multiple of `TILE` (R151). -/
def dimensionsOk (w h : Dim) : Bool := tileAligned w && tileAligned h

/-- ENCODE (R150): the dimension check before anything is touched, then the start, the walk and its end. -/
def execEncode (w h : Dim) (s : State) : Host.Outcome State Fault Refusal :=
  if dimensionsOk w h then encodeResult (walkPixels (walkOrder w h) (startJob w h s))
  else .next (raise .dimensionError s)

/-- `advance(POS)`: plus one on the mixed-radix number `TROW, TCOL, SROW, SCOL` (R155). -/
def advance (w h : Dim) (p : Pos) : Pos :=
  if p.scol.toNat < 7 then { p with scol := p.scol + 1#3 }
  else if p.srow.toNat < 7 then { p with srow := p.srow + 1#3, scol := 0#3 }
  else if p.tcol.toNat + 1 < tileCount w then { p with tcol := p.tcol + 1#13, srow := 0#3, scol := 0#3 }
  else if p.trow.toNat + 1 < tileCount h then ⟨p.trow + 1#13, 0#13, 0#3, 0#3⟩
  else Pos.zero

/-- The start step of the step-level ENCODE, or its DimensionError (R151, R152). -/
def encodeStart (w h : Dim) (s : State) : Host.Outcome State Fault Refusal :=
  if dimensionsOk w h then .next (setBusy true { startJob w h s with pos := Pos.zero })
  else .next (raise .dimensionError s)

/-- PIXSTEP (R154): the pixel `POS` names, then `POS <- advance(POS)`; a failing lookup aborts (R157). -/
def pixStep (s : State) : Host.Outcome State Fault Refusal :=
  match visitPixel (pixelX s.pos) (pixelY s.pos) s with
  | .appended s' => .next { s' with pos := advance s.w s.h s.pos }
  | .full => .next (raise .tooManyColors s)
  | .noPixel => .refused (.gridUndefined (pixelX s.pos) (pixelY s.pos))

/-- The completion step (R156). -/
def completeStep (s : State) : State :=
  respond .ok 0x0000#16 (setBusy false (setOvalid true { s with pos := Pos.zero }))

/-- The one step enabled in phase RUN (R158): PIXSTEP below `W × H`, completion at it. -/
def sequencerStep (s : State) : Host.Outcome State Fault Refusal :=
  if s.ocnt.toNat < pixelCount s then pixStep s
  else if s.ocnt.toNat = pixelCount s then .next (completeStep s)
  else .fault .sequencerStuck

end Sys2Proof.Machine
end

