-- ==== Sys2Proof/Machine/Dispatch.lean ====
section
/-! DEFINITION. One arm per command: each calls its meaning (`30_encoding.md` R90). -/

namespace Sys2Proof.Machine

def exec (i : Instr) (s : State) : Host.Outcome State Fault Refusal :=
  match i with
  | .quant c => Sys2Proof.Machine.execQuant c s
  | .pnew cap => Sys2Proof.Machine.execPnew cap s
  | .plki c => Sys2Proof.Machine.execPlki c s
  | .pser => Sys2Proof.Machine.execPser s
  | .encode w h => Sys2Proof.Machine.execEncode w h s

end Sys2Proof.Machine
end

