-- ==== Sys2Proof/WellFormed.lean ====
section
/-! DEFINITION. Which terms of `Instr` are legal commands (`30_encoding.md` R86, R92): the one check is
PNEW's capacity bound; every operand of the other four commands is legal (R85, R87, R88). -/

namespace Sys2Proof

/-- A legal command: PNEW's 9-bit operand is at most `CAP_MAX` (R86). -/
def Instr.wf : Instr → Bool
  | .quant _ => true
  | .pnew cap => decide (cap.toNat ≤ Config.ctq.capMax)
  | .plki _ => true
  | .pser => true
  | .encode _ _ => true

@[simp] theorem Instr.wf_quant (c : TrueColor) : (Instr.quant c).wf = true := rfl
@[simp] theorem Instr.wf_pnew (cap : Capacity) : (Instr.pnew cap).wf = decide (cap.toNat ≤ 256) := rfl
@[simp] theorem Instr.wf_plki (c : TrueColor) : (Instr.plki c).wf = true := rfl
@[simp] theorem Instr.wf_pser : Instr.pser.wf = true := rfl
@[simp] theorem Instr.wf_encode (w h : Dim) : (Instr.encode w h).wf = true := rfl

end Sys2Proof
end

