-- ==== Sys2Proof/Decode.lean ====
section
/-! DEFINITION. The command word: the TrueColor word layout (`30_encoding.md` R80), the decoder, total on
all 2^40 words and rejecting by name (R92, R93), the encoder written from the format tables (R84 to R88),
and the opcode map as match and mask rows (R90). -/

namespace Sys2Proof

/-- `R = c[7:0], G = c[15:8], B = c[23:16], A = c[31:24]` (R80). -/
def trueColorOfWord (c : BitVec 32) : TrueColor where
  r := c.extractLsb' 0 8
  g := c.extractLsb' 8 8
  b := c.extractLsb' 16 8
  a := c.extractLsb' 24 8

/-- The 32-bit word `{A, B, G, R}` of a TrueColor (R80). -/
def wordOfTrueColor (c : TrueColor) : BitVec 32 :=
  c.a ++ c.b ++ c.g ++ c.r

/-- Why a command word is illegal: the cases (a), (b), (c) of R92. All of them raise the one failure
IllegalCommand; the reason is not recorded by the block (R196). -/
inductive IllegalReason where
  /-- (a) `op` is 0x00 or 0x06 to 0xFF -/
  | reservedOpcode
  /-- (b) PNEW with `arg[31:9]` not zero -/
  | pnewReservedBits
  /-- (b) PNEW with `arg[8:0]` above `CAP_MAX` -/
  | pnewCapacity
  /-- (c) PSER with `arg` not zero -/
  | pserOperand
  deriving DecidableEq, Repr

/-- What the decoder answers: a command, or ILLEGAL with the clause of R92 that rejects the word. -/
inductive Decoded where
  | command (i : Instr)
  | illegal (why : IllegalReason)
  deriving DecidableEq, Repr

/-- `op = cw[39:32]` (R84). -/
def opField (cw : CommandWord) : BitVec 8 := cw.extractLsb' 32 8

/-- `arg = cw[31:0]` (R84). -/
def argField (cw : CommandWord) : BitVec 32 := cw.extractLsb' 0 32

/-- Format N: `cap = arg[8:0]`, legal only if `arg[31:9] = 0` and `cap ≤ CAP_MAX` (R86). -/
def decodePnew (arg : BitVec 32) : Decoded :=
  if arg.extractLsb' 9 23 = 0#23 then
    if (arg.extractLsb' 0 9).toNat ≤ Config.ctq.capMax then .command (.pnew (arg.extractLsb' 0 9))
    else .illegal .pnewCapacity
  else .illegal .pnewReservedBits

/-- Format Z: `arg` must be 0 (R87). -/
def decodePser (arg : BitVec 32) : Decoded :=
  if arg = 0#32 then .command .pser else .illegal .pserOperand

/-- Format D: `w = arg[15:0]`, `h = arg[31:16]` (R88). -/
def decodeEncode (arg : BitVec 32) : Decoded :=
  .command (.encode (arg.extractLsb' 0 16) (arg.extractLsb' 16 16))

/-- The decoding procedure of R93. -/
def decode (cw : CommandWord) : Decoded :=
  if opField cw = 0x01#8 then .command (.quant (trueColorOfWord (argField cw)))
  else if opField cw = 0x02#8 then decodePnew (argField cw)
  else if opField cw = 0x03#8 then .command (.plki (trueColorOfWord (argField cw)))
  else if opField cw = 0x04#8 then decodePser (argField cw)
  else if opField cw = 0x05#8 then decodeEncode (argField cw)
  else .illegal .reservedOpcode

/-- The word of a command, from the format tables (C, N, Z, D: R85 to R88). Of an ill-formed PNEW it is the
word of its nine operand bits, which the decoder rejects. -/
def encode : Instr → CommandWord
  | .quant c => 0x01#8 ++ wordOfTrueColor c
  | .pnew cap => 0x02#8 ++ 0#23 ++ cap
  | .plki c => 0x03#8 ++ wordOfTrueColor c
  | .pser => 0x04#8 ++ 0#32
  | .encode w h => 0x05#8 ++ h ++ w

/-- One row of R90's match and mask table. -/
structure OpcodeRow where
  pattern : CommandWord
  mask : CommandWord
  deriving DecidableEq, Repr

/-- The row of R90's match and mask table that a command's word selects. -/
def Instr.row : Instr → OpcodeRow
  | .quant _ => ⟨0x0100000000#40, 0xFF00000000#40⟩
  | .pnew _ => ⟨0x0200000000#40, 0xFFFFFFFE00#40⟩
  | .plki _ => ⟨0x0300000000#40, 0xFF00000000#40⟩
  | .pser => ⟨0x0400000000#40, 0xFFFFFFFFFF#40⟩
  | .encode _ _ => ⟨0x0500000000#40, 0xFF00000000#40⟩

/-- R90: a word `cw` selects a row when `cw & mask = match`. -/
def OpcodeRow.selectedBy (row : OpcodeRow) (cw : CommandWord) : Bool :=
  cw &&& row.mask == row.pattern

/-- The five rows of R90, in the order of the table. -/
def opcodeRows : List OpcodeRow :=
  [⟨0x0100000000#40, 0xFF00000000#40⟩, ⟨0x0200000000#40, 0xFFFFFFFE00#40⟩,
   ⟨0x0300000000#40, 0xFF00000000#40⟩, ⟨0x0400000000#40, 0xFFFFFFFFFF#40⟩,
   ⟨0x0500000000#40, 0xFF00000000#40⟩]

/-- The 40-bit word whose bits are `w`, bits at and above `nbits` being 0 (log entry 11). A command word is one
number, not a byte string (`91_not_in_source.md` N17), so bit 0 of `w` is bit 0 of the word. -/
def tableWord (nbits w : Nat) : CommandWord := BitVec.ofNat 40 (w % 2 ^ nbits)

/-- The instruction this decoder reads from an opcode-table word. -/
def decodeTableWord (nbits w : Nat) : Option Instr :=
  match decode (tableWord nbits w) with
  | .command i => some i
  | .illegal _ => none

end Sys2Proof
end

