-- ==== Sys2Proof/Machine/HostPort.lean ====
section
/-! DEFINITION. The host's side of the block (`70_reset_and_hazards.md` R240, R241; `20_memory.md` R69): what the host may read
and when, how it issues a command or asserts reset, and how the block takes the next command from the port. -/

namespace Sys2Proof.Machine

/-- The registers the host can read (R32). -/
inductive HostRegister where
  | cap | nextFree | result | status | w | h | ocnt | plen
  deriving DecidableEq, Repr

/-- The value of a register, zero-extended to 32 bits. -/
def registerValue (r : HostRegister) (s : State) : BitVec 32 :=
  match r with
  | .cap => s.table.cap.setWidth 32
  | .nextFree => s.table.nextFree.setWidth 32
  | .result => s.result.setWidth 32
  | .status => (statusWord s.status).setWidth 32
  | .w => s.w.setWidth 32
  | .h => s.h.setWidth 32
  | .ocnt => s.ocnt
  | .plen => s.plen.setWidth 32

/-- The host reads a register only when `BUSY = 0`; otherwise it has no such move (R240, U4). -/
def hostReadRegister (r : HostRegister) (s : State) : Option (BitVec 32) :=
  if s.status.busy then none else some (registerValue r s)

/-- The two output memories the host can read (R50). -/
inductive HostSpace where
  | out | pbuf
  deriving DecidableEq, Repr

/-- The bytes of a space the host may read now: none of them unless the block is idle and the space is valid (R69). -/
def readableLength (sp : HostSpace) (s : State) : Nat :=
  match sp with
  | .out => if s.status.busy || !s.status.ovalid then 0 else s.ocnt.toNat
  | .pbuf => if s.status.busy || !s.status.pvalid then 0 else s.plen.toNat

/-- The bytes a space holds. -/
def spaceMemory (sp : HostSpace) (s : State) : Memory :=
  match sp with
  | .out => s.out
  | .pbuf => s.pbuf

/-- The host's `MemRead(space, addr, n)`, `n > 0`: little-endian, refused (`none`) unless every byte may be read
(R9, R57, R69, U3). -/
def hostMemRead (sp : HostSpace) (addr n : Nat) (s : State) : Option Nat :=
  if addr + n ≤ readableLength sp s then memRead (spaceMemory sp s) addr n else none

/-- The host readies one more command, after those it has readied before (R240). -/
def hostIssue (r : Request) (s : State) : State := { s with port := s.port ++ [r] }

/-- The host asserts the reset input (R230). -/
def hostAssertReset (s : State) : State := { s with resetPin := true }

/-- The block accepts the command at the head of the port: an illegal word raises IllegalCommand and is never examined
further (R92, R198); a legal one is executed by `run`, with the grid the host had ready (R53). -/
def acceptCommand (run : Instr → State → Host.Outcome State Fault Refusal) (r : Request) (rest : List Request)
    (s : State) : Host.Outcome State Fault Refusal :=
  match decode r.word with
  | .command i => run i { s with port := rest, grid := r.grid }
  | .illegal _ => .next (raise .illegalCommand { s with port := rest, grid := r.grid })

/-- One step of the block: the reset input first; in phase RUN the step `internal`; in phase IDLE the next command
of the port, if there is one (R158, R241). With nothing to do the block holds all its state (R211). -/
def blockStep (run : Instr → State → Host.Outcome State Fault Refusal)
    (internal : State → Host.Outcome State Fault Refusal) (s : State) : Host.Outcome State Fault Refusal :=
  if s.resetPin then .next (applyReset s)
  else if s.status.busy then internal s
  else
    match s.port with
    | [] => .next s
    | r :: rest => acceptCommand run r rest s

/-- The request that hands the block the opcode-table word `w` of `nbits` bits, with the grid now at the port. -/
def tableRequest (nbits w : Nat) (s : State) : Request :=
  { word := tableWord nbits w, grid := s.grid }

end Sys2Proof.Machine
end

