-- ==== Sys2Proof/Machine/Step.lean ====
section
/-! DEFINITION. The step of the machine at the command level, where every command is one atomic transition
(`00_scope.md` R18, `70_reset_and_hazards.md` R241), and the step at the step level, where an ENCODE is unfolded
(`42_tile_encoder.md` R158). -/

namespace Sys2Proof.Machine

/-- One step at the command level: an accepted command runs whole. (A state with `BUSY = 1`, which only the step level
reaches, takes the one step R158 enables.) -/
def step (s : State) : Host.Outcome State Fault Refusal :=
  blockStep exec sequencerStep s

/-- What an accepted command does at the step level: an ENCODE takes its start step (R152), every other command is one
atomic step (R158). -/
def fineExec (i : Instr) (s : State) : Host.Outcome State Fault Refusal :=
  match i with
  | .quant c => execQuant c s
  | .pnew cap => execPnew cap s
  | .plki c => execPlki c s
  | .pser => execPser s
  | .encode w h => encodeStart w h s

/-- One step at the step level (R158). -/
def fineStep (s : State) : Host.Outcome State Fault Refusal :=
  blockStep fineExec sequencerStep s

/-- The state in which the next step accepts the opcode-table word `w` of `nbits` bits: the word stands at the head of the
port, and the block is idle with its reset input released (log entry 2). -/
def State.withFetchWord (s : State) (nbits w : Nat) : State :=
  setBusy false { s with port := tableRequest nbits w s :: s.port, resetPin := false }

end Sys2Proof.Machine
end

