-- ==== Sys2Proof/Machine/Assembler.lean ====
section
/-! DEFINITION. The assembler syntax of `30_encoding.md` R100 and the pseudo-instructions' of R102: one command a line, a
comment from `;` to the end of the line, decimal or `0x` numbers, upper-case mnemonics. Blanks separate (log entry 12). -/

namespace Sys2Proof.Machine

/-- The tokens of a line. -/
inductive AsmToken where
  | name (cs : List Char)
  | number (n : Nat)
  | lparen | rparen | comma
  deriving DecidableEq, Repr

/-- What a line holds: nothing, a command, or a pseudo-instruction. -/
inductive AsmLine where
  | blank
  | command (i : Instr)
  | pseudo (p : Pseudo)
  deriving DecidableEq, Repr

/-- The value of a decimal digit. -/
def decimalDigit (c : Char) : Option Nat :=
  if 48 ≤ c.toNat ∧ c.toNat ≤ 57 then some (c.toNat - 48) else none

/-- The value of a hexadecimal digit, of either case. -/
def hexDigit (c : Char) : Option Nat :=
  if 65 ≤ c.toNat ∧ c.toNat ≤ 70 then some (c.toNat - 55)
  else if 97 ≤ c.toNat ∧ c.toNat ≤ 102 then some (c.toNat - 87)
  else decimalDigit c

/-- The number a list of digits spells in a base, most significant first, continuing from `acc`. -/
def digitsValue (base : Nat) (digit : Char → Option Nat) : Nat → List Char → Option Nat
  | acc, [] => some acc
  | acc, c :: cs =>
    match digit c with
    | some d => digitsValue base digit (acc * base + d) cs
    | none => none

/-- A number: decimal, or hexadecimal after `0x`. -/
def numberOf : List Char → Option Nat
  | [] => none
  | '0' :: 'x' :: [] => none
  | '0' :: 'x' :: c :: cs => digitsValue 16 hexDigit 0 (c :: cs)
  | c :: cs => digitsValue 10 decimalDigit 0 (c :: cs)

/-- The token a run of characters makes: a number if it starts with a digit, else a name. -/
def tokenOf : List Char → Option AsmToken
  | [] => none
  | c :: cs =>
    if (decimalDigit c).isSome then (numberOf (c :: cs)).map AsmToken.number else some (.name (c :: cs))

/-- Puts the token of the run read so far (its characters in reverse) before the tokens after it. -/
def withRun (run : List Char) (rest : Option (List AsmToken)) : Option (List AsmToken) :=
  if run = [] then rest
  else
    match tokenOf run.reverse, rest with
    | some t, some ts => some (t :: ts)
    | _, _ => none

/-- The tokens of a line; a comment ends it. -/
def lexLine : List Char → List Char → Option (List AsmToken)
  | run, [] => withRun run (some [])
  | run, c :: cs =>
    if c = ';' then withRun run (some [])
    else if c = ' ' ∨ c = '\t' then withRun run (lexLine [] cs)
    else if c = '(' then withRun run ((lexLine [] cs).map (AsmToken.lparen :: ·))
    else if c = ')' then withRun run ((lexLine [] cs).map (AsmToken.rparen :: ·))
    else if c = ',' then withRun run ((lexLine [] cs).map (AsmToken.comma :: ·))
    else lexLine (c :: run) cs

/-- A colour operand `(R,G,B,A)`: four channel values 0 to 255. -/
def colorOperand : List AsmToken → Option TrueColor
  | [.lparen, .number r, .comma, .number g, .comma, .number b, .comma, .number a, .rparen] =>
    if r ≤ 255 ∧ g ≤ 255 ∧ b ≤ 255 ∧ a ≤ 255 then
      some ⟨BitVec.ofNat 8 r, BitVec.ofNat 8 g, BitVec.ofNat 8 b, BitVec.ofNat 8 a⟩
    else none
  | _ => none

/-- A capacity operand, 0 to 256. -/
def capacityOperand : List AsmToken → Option Capacity
  | [.number cap] => if cap ≤ 256 then some (BitVec.ofNat 9 cap) else none
  | _ => none

/-- The dimension operands `w, h`, 0 to 65535 each. -/
def dimensionOperands : List AsmToken → Option (Dim × Dim)
  | [.number w, .comma, .number h] =>
    if w ≤ 65535 ∧ h ≤ 65535 then some (BitVec.ofNat 16 w, BitVec.ofNat 16 h) else none
  | _ => none

/-- The line a list of tokens spells. -/
def parseTokens : List AsmToken → Option AsmLine
  | [] => some .blank
  | .name m :: ops =>
    if m = ['Q', 'U', 'A', 'N', 'T'] then (colorOperand ops).map fun c => .command (.quant c)
    else if m = ['P', 'N', 'E', 'W'] then (capacityOperand ops).map fun cap => .command (.pnew cap)
    else if m = ['P', 'L', 'K', 'I'] then (colorOperand ops).map fun c => .command (.plki c)
    else if m = ['P', 'S', 'E', 'R'] then (if ops = [] then some (.command .pser) else none)
    else if m = ['E', 'N', 'C', 'O', 'D', 'E'] then (dimensionOperands ops).map fun d => .command (.encode d.1 d.2)
    else if m = ['C', 'O', 'N', 'V', 'E', 'R', 'T'] then (dimensionOperands ops).map fun d => .pseudo (.convert d.1 d.2)
    else if m = ['P', 'N', 'E', 'W', '2', '5', '6'] then (if ops = [] then some (.pseudo .pnew256) else none)
    else none
  | _ => none

/-- Reading one line of assembler text (R100); `none` where it is not a line of the syntax. -/
def assembleLine (line : List Char) : Option AsmLine :=
  match lexLine [] line with
  | some ts => parseTokens ts
  | none => none

end Sys2Proof.Machine
end

