-- ==== Sys2Proof/Machine/Pseudo.lean ====
section
/-! DEFINITION. The pseudo-instructions of `30_encoding.md` R102 as what the host gets by issuing their expansions. -/

namespace Sys2Proof.Machine

/-- `CONVERT w, h`: ENCODE; if its response is Ok, then PSER (R102). -/
def execConvert (w h : Dim) (s : State) : Host.Outcome State Fault Refusal :=
  match exec (.encode w h) s with
  | .next t => if t.status.err = .ok then exec .pser t else .next t
  | .fault f => .fault f
  | .refused r => .refused r

/-- `PNEW256`: `PNEW 256` (R102). -/
def execPnew256 (s : State) : Host.Outcome State Fault Refusal := exec (.pnew 256#9) s

/-- The effect of a pseudo-instruction. -/
def execPseudo (p : Pseudo) (s : State) : Host.Outcome State Fault Refusal :=
  match p with
  | .convert w h => execConvert w h s
  | .pnew256 => execPnew256 s

end Sys2Proof.Machine
end

