-- ==== Sys2Proof/Safety.lean ====
section
/-! DEFINITION. The terms claims are stated in: the invariants of the state (`10_state.md` R33 to R36, and what holds in phase
RUN), the host's duties (`70_reset_and_hazards.md` R232, R240), what a safe outcome is, and the closed forms of the tile walk
and of a sequence of lookups (`42_tile_encoder.md` R160, R161; `41_palette_table.md` R127). -/

namespace Sys2Proof.Machine

/-- The table invariant (R33, R34), with the canonical form of the two maps. -/
structure TableInv (t : PaletteTable) : Prop where
  nextFree_le_cap : t.nextFree.toNat ≤ t.cap.toNat
  cap_le : t.cap.toNat ≤ 256
  fwd_wf : storeWf t.fwd = true
  rev_wf : storeWf t.rev = true
  /-- `FWD` is indexed by 15-bit colours. -/
  fwd_key : ∀ k slot, storeRead t.fwd k = some slot → k < 32768
  /-- `REV` lists exactly the allocated slots. -/
  rev_listed : ∀ i, (storeRead t.rev i).isSome = true ↔ i < t.nextFree.toNat
  /-- bit 15 of an entry is 0 -/
  rev_color : ∀ i hc, storeRead t.rev i = some hc → hc.toNat < 32768
  /-- R33: `FWD[c] = Some s` if and only if `s < NEXT_FREE` and `REV[s] = c`. -/
  inverse : ∀ hc : HardwareColor, hc.toNat < 32768 → ∀ slot : Slot,
    storeRead t.fwd hc.toNat = some slot ↔
      slot.toNat < t.nextFree.toNat ∧ storeRead t.rev slot.toNat = some hc

/-- `OUT` is the sequence of exactly its first `OCNT` bytes, each naming an allocated slot (R54, R35). -/
structure StreamWf (s : State) : Prop where
  out_wf : Memory.wf s.out = true
  out_listed : ∀ k, (storeRead s.out k).isSome = true ↔ k < s.ocnt.toNat
  out_slot : ∀ k b, storeRead s.out k = some b → b.toNat < s.table.nextFree.toNat
  w_aligned : s.w.toNat % 8 = 0
  h_aligned : s.h.toNat % 8 = 0

/-- The stream invariants of an idle state (R35). -/
structure StreamInv (s : State) : Prop where
  pos_zero : s.pos = Pos.zero
  stream : StreamWf s
  valid : s.status.ovalid = true → s.ocnt.toNat = pixelCount s ∧ s.table.cap.toNat = 256
  invalid : s.status.ovalid = false → s.ocnt = 0#32 ∧ s.w = 0#16 ∧ s.h = 0#16

/-- The palette-buffer invariants of an idle state (R36). -/
structure PaletteInv (s : State) : Prop where
  pbuf_wf : Memory.wf s.pbuf = true
  pbuf_listed : ∀ j, (storeRead s.pbuf j).isSome = true ↔ j < s.plen.toNat
  valid : s.status.pvalid = true →
    s.plen.toNat = 2 * s.table.cap.toNat ∧
    ∀ i, i < s.table.cap.toNat →
      storeRead s.pbuf (2 * i) = some ((slotValue s.table i).extractLsb' 0 8) ∧
      storeRead s.pbuf (2 * i + 1) = some ((slotValue s.table i).extractLsb' 8 8)
  invalid : s.status.pvalid = false → s.plen = 0#10

/-- `POS` is the position of traversal rank `k` in a grid of width `w` (R160). -/
structure PosAtRank (w : Dim) (k : Nat) (p : Pos) : Prop where
  trow : p.trow.toNat = k / 64 / tileCount w
  tcol : p.tcol.toNat = k / 64 % tileCount w
  srow : p.srow.toNat = k % 64 / 8
  scol : p.scol.toNat = k % 8

/-- What holds in phase RUN (`BUSY = 1`): R152, R154, R160. -/
structure RunInv (s : State) : Prop where
  cap_eq : s.table.cap.toNat = 256
  ovalid : s.status.ovalid = false
  pvalid : s.status.pvalid = false
  plen : s.plen = 0#10
  pbuf : s.pbuf = []
  stream : StreamWf s
  ocnt_le : s.ocnt.toNat ≤ pixelCount s
  pos_rank : s.ocnt.toNat < pixelCount s → PosAtRank s.w s.ocnt.toNat s.pos
  pos_end : s.ocnt.toNat = pixelCount s → s.pos = Pos.zero

/-- The invariant of the block. -/
structure BlockInv (s : State) : Prop where
  table : TableInv s.table
  idle : s.status.busy = false → StreamInv s ∧ PaletteInv s
  run : s.status.busy = true → RunInv s

/-- The four spaces are in canonical form. -/
structure SpacesWf (s : State) : Prop where
  out : Memory.wf s.out = true
  pbuf : Memory.wf s.pbuf = true
  fwd : storeWf s.table.fwd = true
  rev : storeWf s.table.rev = true

/-- The grid is defined at every position of a `w × h` image (the duty of R232). -/
def GridCovers (g : Grid) (w h : Dim) : Prop :=
  ∀ x y, x < w.toNat → y < h.toNat → (gridRead g x y).isSome = true

/-- The host's duties (R232, R242): every ENCODE it has ready comes with a grid of the dimensions it states, and the grid
of a running ENCODE is defined. -/
structure HostDuty (s : State) : Prop where
  pending : ∀ r ∈ s.port, ∀ w h, decode r.word = .command (.encode w h) → GridCovers r.grid w h
  running : s.status.busy = true → GridCovers s.grid s.w s.h

/-- The step goes on: no fault and no refusal. -/
def Continues (o : Host.Outcome State Fault Refusal) : Prop := ∃ t, o = .next t

/-- The block is idle and takes the request `r` next. -/
structure Accepts (s : State) (r : Request) (rest : List Request) : Prop where
  released : s.resetPin = false
  idle : s.status.busy = false
  port : s.port = r :: rest

/-- The state in which an accepted command runs: the port has moved on and its grid is at the grid port. -/
def taken (s : State) (r : Request) (rest : List Request) : State :=
  { s with port := rest, grid := r.grid }

/-- The traversal rank `k(x, y)` of R160. -/
def rankOf (w : Dim) (x y : Nat) : Nat :=
  (y / 8 * tileCount w + x / 8) * 64 + y % 8 * 8 + x % 8

/-- `x(k)` of R160. -/
def rankX (w : Dim) (k : Nat) : Nat := k / 64 % tileCount w * 8 + k % 64 % 8

/-- `y(k)` of R160. -/
def rankY (w : Dim) (k : Nat) : Nat := k / 64 / tileCount w * 8 + k % 64 / 8

/-- The distinct values of a list in order of first occurrence (R127, R161). -/
def firstSeen : List HardwareColor → List HardwareColor → List HardwareColor
  | seen, [] => seen
  | seen, q :: qs => if q ∈ seen then firstSeen seen qs else firstSeen (seen ++ [q]) qs

/-- `D`: the distinct quantized colours among a sequence of pixels, in order of first occurrence (R127, R161). -/
def distinctColors (cs : List TrueColor) : List HardwareColor := firstSeen [] (cs.map quantize)

/-- The slots of a table as a list, `[REV[0], ..., REV[NEXT_FREE-1]]` (R37). -/
def slotList (t : PaletteTable) : List HardwareColor :=
  (List.range t.nextFree.toNat).map (revEntry t)

/-- The reply of one lookup: the slot, or `none` for CapacityExceeded; and the table it leaves (R124). -/
def lookupReply (t : PaletteTable) (c : TrueColor) : Option Slot × PaletteTable :=
  match lookupOrInsert t c with
  | .hit slot => (some slot, t)
  | .inserted slot t' => (some slot, t')
  | .capacityExceeded => (none, t)

/-- A sequence of lookups: the replies in order, and the table it leaves. -/
def lookupAll : PaletteTable → List TrueColor → List (Option Slot) × PaletteTable
  | t, [] => ([], t)
  | t, c :: cs =>
    ((lookupReply t c).1 :: (lookupAll (lookupReply t c).2 cs).1, (lookupAll (lookupReply t c).2 cs).2)

/-- `cs` is the list of the grid's pixels in the order of the closed form of R160: entry `k` is the pixel at `(x(k), y(k))`,
for every `0 ≤ k < W × H`. -/
structure TraversalPixels (g : Grid) (w h : Dim) (cs : List TrueColor) : Prop where
  length : cs.length = w.toNat * h.toNat
  pixel : ∀ k, k < w.toNat * h.toNat → gridRead g (rankX w k) (rankY w k) = cs[k]?

/-- The idle state an ENCODE that succeeds leaves, given its table and its stream: everything else R150 lists (R150, R156).
-/
def encodeDone (w h : Dim) (t : PaletteTable) (out : Memory) (s : State) : State :=
  { s with
    table := t, w := w, h := h, ocnt := BitVec.ofNat 32 (w.toNat * h.toNat), out := out, pbuf := [], plen := 0#10
    status := { s.status with err := .ok, ovalid := true, pvalid := false }
    responses := s.responses ++ [{ code := .ok, value := 0#16 }] }

/-- The state an ENCODE that fails with TooManyColors leaves: reset values but for `ERR` and `RESULT` (R157, R193). -/
def jobDiscarded (s : State) : State :=
  { s with
    table := { cap := 256#9, nextFree := 0#9, fwd := [], rev := [] }, w := 0#16, h := 0#16, pos := ⟨0#13, 0#13, 0#3, 0#3⟩
    ocnt := 0#32, out := [], pbuf := [], plen := 0#10
    status := { err := .tooManyColors, ovalid := false, pvalid := false, busy := false }
    responses := s.responses ++ [{ code := .tooManyColors, value := 0#16 }] }

/-- The state a failure that changes nothing but its code leaves (R191, R192, R194). -/
def onlyCode (code : ErrCode) (s : State) : State :=
  { s with
    status := { s.status with err := code }
    responses := s.responses ++ [{ code := code, value := 0#16 }] }

/-- `n` steps in turn, stopping at the first that does not go on. -/
def runSteps (f : State → Host.Outcome State Fault Refusal) : Nat → State → Host.Outcome State Fault Refusal
  | 0, s => .next s
  | n + 1, s =>
    match f s with
    | .next t => runSteps f n t
    | .fault e => .fault e
    | .refused e => .refused e

/-- A list of commands, each from the state the one before it left. -/
def runCommands : List Instr → State → Host.Outcome State Fault Refusal
  | [], s => .next s
  | i :: is, s =>
    match exec i s with
    | .next t => runCommands is t
    | .fault e => .fault e
    | .refused e => .refused e

/-- The word `cw` is the one word of the command `i`; an idle block that takes it runs `i`; while `BUSY = 1` no command is
accepted: what waits at the port stays there (R84, R93, R241). -/
structure TakesWord (i : Instr) (cw : CommandWord) : Prop where
  encoded : encode i = cw
  decoded : decode cw = .command i
  runs : ∀ s r rest, Accepts s r rest → r.word = cw → step s = exec i (taken s r rest)
  waits : ∀ s t, s.resetPin = false → s.status.busy = true → step s = .next t → t.port = s.port

/-- The command leaves the table: no PNEW, no inserting PLKI, no ENCODE that passes its dimension check (R133). -/
def LeavesTable (i : Instr) (s : State) : Prop :=
  match i with
  | .quant _ => True
  | .pnew _ => False
  | .plki c => ∀ slot t, lookupOrInsert s.table c ≠ .inserted slot t
  | .pser => True
  | .encode w h => dimensionsOk w h = false

/-- Every command of a list, run in turn, leaves the table. -/
def AllLeaveTable : List Instr → State → Prop
  | [], _ => True
  | i :: is, s => LeavesTable i s ∧ ∀ t, exec i s = .next t → AllLeaveTable is t

/-- The mixed-radix number a position spells: digits `TROW, TCOL, SROW, SCOL` (R155). -/
def posValue (w : Dim) (p : Pos) : Nat :=
  ((p.trow.toNat * tileCount w + p.tcol.toNat) * 8 + p.srow.toNat) * 8 + p.scol.toNat

end Sys2Proof.Machine
end

