-- ==== Sys2Proof/Certificates/Slice0/Obligations.lean ====
section
/-! DEFINITION. The statements for the provers, by the spec's files. Each docstring names the rule it formalises. -/

open Sys2Proof Sys2Proof.Machine

/-! ### Encoding (`30_encoding.md`) -/

/-- R93: the decoding procedure, on every 40-bit word, and that encoding is its inverse on both sides, which the spec marks as
derived from R84 to R88. -/
def Obligations.DecodeProcedureAndItsInverse : Prop :=
  (∀ cw : CommandWord, ∀ op arg : Nat, op = cw.toNat / 2 ^ 32 → arg = cw.toNat % 2 ^ 32 →
    (op = 1 → decode cw = .command (.quant
      ⟨BitVec.ofNat 8 arg, BitVec.ofNat 8 (arg / 2 ^ 8), BitVec.ofNat 8 (arg / 2 ^ 16), BitVec.ofNat 8 (arg / 2 ^ 24)⟩)) ∧
    (op = 2 → arg / 2 ^ 9 = 0 → arg ≤ 256 → decode cw = .command (.pnew (BitVec.ofNat 9 arg))) ∧
    (op = 3 → decode cw = .command (.plki
      ⟨BitVec.ofNat 8 arg, BitVec.ofNat 8 (arg / 2 ^ 8), BitVec.ofNat 8 (arg / 2 ^ 16), BitVec.ofNat 8 (arg / 2 ^ 24)⟩)) ∧
    (op = 4 → arg = 0 → decode cw = .command .pser) ∧
    (op = 5 → decode cw = .command (.encode (BitVec.ofNat 16 arg) (BitVec.ofNat 16 (arg / 2 ^ 16)))) ∧
    (op = 2 → 256 < arg → ∃ why, decode cw = .illegal why) ∧
    (op = 4 → arg ≠ 0 → ∃ why, decode cw = .illegal why) ∧
    (op = 0 ∨ 6 ≤ op → ∃ why, decode cw = .illegal why)) ∧
  (∀ i : Instr, i.wf = true → decode (encode i) = .command i) ∧
  (∀ (cw : CommandWord) (i : Instr), decode cw = .command i → encode i = cw ∧ i.wf = true)

/-- R92: which words are illegal, and that an illegal command writes its code, responds, and changes nothing else. -/
def Obligations.IllegalWordsAndTheirEffect : Prop :=
  (∀ cw : CommandWord, (∃ why, decode cw = .illegal why) ↔
    (cw.toNat / 2 ^ 32 = 0 ∨ 6 ≤ cw.toNat / 2 ^ 32) ∨
    (cw.toNat / 2 ^ 32 = 2 ∧ (cw.toNat / 2 ^ 9 % 2 ^ 23 ≠ 0 ∨ 256 < cw.toNat % 2 ^ 9)) ∨
    (cw.toNat / 2 ^ 32 = 4 ∧ cw.toNat % 2 ^ 32 ≠ 0)) ∧
  (∀ s r rest why, Accepts s r rest → decode r.word = .illegal why →
    step s = .next (onlyCode .illegalCommand (taken s r rest)) ∧
    fineStep s = .next (onlyCode .illegalCommand (taken s r rest)))

/-- R90: each command is selected by exactly the words its match and mask give, and every other opcode is reserved. -/
def Obligations.OpcodeMapByMatchAndMask : Prop :=
  ∀ cw : CommandWord,
    ((∃ c, decode cw = .command (.quant c)) ↔ cw &&& 0xFF00000000#40 = 0x0100000000#40) ∧
    ((∃ cap, decode cw = .command (.pnew cap)) ↔
      cw &&& 0xFFFFFFFE00#40 = 0x0200000000#40 ∧ (cw &&& 0x00000001FF#40).toNat ≤ 256) ∧
    ((∃ c, decode cw = .command (.plki c)) ↔ cw &&& 0xFF00000000#40 = 0x0300000000#40) ∧
    (decode cw = .command .pser ↔ cw &&& 0xFFFFFFFFFF#40 = 0x0400000000#40) ∧
    ((∃ w h, decode cw = .command (.encode w h)) ↔ cw &&& 0xFF00000000#40 = 0x0500000000#40) ∧
    ((∀ op ∈ [1, 2, 3, 4, 5], cw &&& 0xFF00000000#40 ≠ BitVec.ofNat 40 (op * 2 ^ 32)) → ∃ why, decode cw = .illegal why)

/-- Some words of `95_test_vectors.md` section 2.1, written out there from the formats, and what they decode as. -/
def Obligations.TabledWordsDecode : Prop :=
  decode 0x0178563412#40 = .command (.quant ⟨0x12#8, 0x34#8, 0x56#8, 0x78#8⟩) ∧
  decode 0x0200000003#40 = .command (.pnew 3#9) ∧
  decode 0x0200000100#40 = .command (.pnew 256#9) ∧
  decode 0x0200000101#40 = .illegal .pnewCapacity ∧
  decode 0x03FF0000FF#40 = .command (.plki ⟨255#8, 0#8, 0#8, 255#8⟩) ∧
  decode 0x0400000000#40 = .command .pser ∧
  decode 0x0400000001#40 = .illegal .pserOperand ∧
  decode 0x0500080010#40 = .command (.encode 16#16 8#16) ∧
  decode 0x0000000000#40 = .illegal .reservedOpcode

/-- The encoding column of R100: each command's word as a sum of its shifted operands. -/
def Obligations.CommandWordFormulas : Prop :=
  (∀ c : TrueColor, (encode (.quant c)).toNat =
    0x01 * 2 ^ 32 + c.a.toNat * 2 ^ 24 + c.b.toNat * 2 ^ 16 + c.g.toNat * 2 ^ 8 + c.r.toNat) ∧
  (∀ cap : Capacity, (encode (.pnew cap)).toNat = 0x02 * 2 ^ 32 + cap.toNat) ∧
  (∀ c : TrueColor, (encode (.plki c)).toNat =
    0x03 * 2 ^ 32 + c.a.toNat * 2 ^ 24 + c.b.toNat * 2 ^ 16 + c.g.toNat * 2 ^ 8 + c.r.toNat) ∧
  (encode .pser).toNat = 0x04 * 2 ^ 32 ∧
  (∀ w h : Dim, (encode (.encode w h)).toNat = 0x05 * 2 ^ 32 + h.toNat * 2 ^ 16 + w.toNat)

/-- Lines of R100's syntax and R102's pseudo-instructions, from `95_test_vectors.md` S2, P1, P2 and P6, as the assembler reads
them (blanks: log entry 12). -/
def Obligations.AssemblerReadsTabledLines : Prop :=
  assembleLine ['Q','U','A','N','T',' ','(','0',',','0',',','1','2','8',',','0',')'] =
    some (.command (.quant ⟨0#8, 0#8, 128#8, 0#8⟩)) ∧
  assembleLine ['P','N','E','W',' ','3',' ',';',' ','x'] = some (.command (.pnew 3#9)) ∧
  assembleLine ['P','S','E','R'] = some (.command .pser) ∧
  assembleLine ['E','N','C','O','D','E',' ','1','6',',',' ','0','x','8'] = some (.command (.encode 16#16 8#16)) ∧
  assembleLine ['C','O','N','V','E','R','T',' ','8',',',' ','8'] = some (.pseudo (.convert 8#16 8#16)) ∧
  assembleLine ['p','s','e','r'] = none ∧
  assembleLine ['P','N','E','W',' ','2','5','7'] = none

/-! ### The Color Quantizer (`40_quantizer.md`) -/

/-- R111, R112: the HardwareColor's three fields are the channels shifted right by three, packed R, G, B upwards under a
zero top bit. -/
def Obligations.QuantizeTruncatesAndPacks : Prop :=
  ∀ c : TrueColor,
    (quantize c).toNat = c.r.toNat / 8 + c.g.toNat / 8 * 2 ^ 5 + c.b.toNat / 8 * 2 ^ 10 ∧
    (quantize c).extractLsb' 0 5 = c.r.extractLsb' 3 5 ∧ ((quantize c).extractLsb' 0 5).toNat = c.r.toNat / 8 ∧
    (quantize c).extractLsb' 5 5 = c.g.extractLsb' 3 5 ∧ ((quantize c).extractLsb' 5 5).toNat = c.g.toNat / 8 ∧
    (quantize c).extractLsb' 10 5 = c.b.extractLsb' 3 5 ∧ ((quantize c).extractLsb' 10 5).toNat = c.b.toNat / 8 ∧
    (quantize c).getLsbD 15 = false

/-- R113, which the spec derives from R111: two pixels collapse exactly when their top five bits agree on each channel, and
each of the 32768 HardwareColors is the image of exactly 2^17 TrueColors, no other value being an image. -/
def Obligations.QuantizeCollapseLaw : Prop :=
  (∀ c1 c2 : TrueColor, quantize c1 = quantize c2 ↔
    c1.r.extractLsb' 3 5 = c2.r.extractLsb' 3 5 ∧ c1.g.extractLsb' 3 5 = c2.g.extractLsb' 3 5 ∧
      c1.b.extractLsb' 3 5 = c2.b.extractLsb' 3 5) ∧
  (∀ hc : HardwareColor, hc.toNat ≤ 0x7FFF → ∃ f : BitVec 17 → TrueColor,
    Function.Injective f ∧ ∀ c, quantize c = hc ↔ ∃ k, f k = c) ∧
  (∀ c : TrueColor, (quantize c).toNat ≤ 0x7FFF)

/-- R114, which the spec derives from R111 and R124: alpha is ignored by the quantizer, so by every lookup and by the two
commands that take a colour. -/
def Obligations.AlphaIsIgnored : Prop :=
  ∀ (c : TrueColor) (a : Byte) (t : PaletteTable) (s : State),
    quantize { c with a := a } = quantize c ∧
    lookupOrInsert t { c with a := a } = lookupOrInsert t c ∧
    exec (.quant { c with a := a }) s = exec (.quant c) s ∧
    exec (.plki { c with a := a }) s = exec (.plki c) s

/-- R110: QUANT answers the HardwareColor in `RESULT` and in its response, writes `STATUS.ERR`, and changes nothing else; its
word; the corner values the rule gives. -/
def Obligations.QuantCommand : Prop :=
  (∀ c : TrueColor, TakesWord (.quant c)
    (BitVec.ofNat 40 (0x01 * 2 ^ 32 + c.a.toNat * 2 ^ 24 + c.b.toNat * 2 ^ 16 + c.g.toNat * 2 ^ 8 + c.r.toNat))) ∧
  (∀ (c : TrueColor) (s : State), exec (.quant c) s = .next
    { s with
      result := quantize c
      status := { s.status with err := .ok }
      responses := s.responses ++ [{ code := .ok, value := quantize c }] }) ∧
  quantize ⟨0#8, 0#8, 0#8, 0#8⟩ = 0x0000#16 ∧ quantize ⟨255#8, 255#8, 255#8, 255#8⟩ = 0x7FFF#16 ∧
  quantize ⟨7#8, 7#8, 7#8, 255#8⟩ = 0x0000#16 ∧ quantize ⟨8#8, 8#8, 8#8, 0#8⟩ = 0x0421#16 ∧
  quantize ⟨0#8, 0#8, 128#8, 0#8⟩ = 0x4000#16

/-! ### The Palette Table (`41_palette_table.md`) -/

/-- R122: construction gives the empty table of its capacity, which meets the table invariant; it is what reset produces
with capacity 256. -/
def Obligations.ConstructGivesEmptyTable : Prop :=
  (∀ cap : Capacity, (construct cap).cap = cap ∧ (construct cap).nextFree = 0#9 ∧
    (∀ c : BitVec 15, storeRead (construct cap).fwd c.toNat = none) ∧ (∀ i, storeRead (construct cap).rev i = none)) ∧
  (∀ cap : Capacity, cap.toNat ≤ 256 → TableInv (construct cap)) ∧
  State.reset.table = construct 256#9

/-- R121: PNEW constructs the table of its capacity and drops both outputs; nothing else changes; its word; capacities above 256
are illegal. From an idle state the result is the reset state with `CAP = cap` and `RESULT` unchanged, which the spec marks as
derived from R121 and R39; with capacity 0 every lookup fails and the serialization is empty, which it marks as derived from
R124 and R130. -/
def Obligations.PnewCommand : Prop :=
  (∀ cap : Capacity, cap.toNat ≤ 256 → TakesWord (.pnew cap) (BitVec.ofNat 40 (0x02 * 2 ^ 32 + cap.toNat))) ∧
  (∀ cap : Capacity, 256 < cap.toNat → ∃ why, decode (BitVec.ofNat 40 (0x02 * 2 ^ 32 + cap.toNat)) = .illegal why) ∧
  (∀ (cap : Capacity) (s : State), exec (.pnew cap) s = .next
    { s with
      table := { cap := cap, nextFree := 0#9, fwd := [], rev := [] }, w := 0#16, h := 0#16, ocnt := 0#32, out := []
      plen := 0#10, pbuf := []
      status := { s.status with err := .ok, ovalid := false, pvalid := false }
      responses := s.responses ++ [{ code := .ok, value := 0#16 }] }) ∧
  (∀ (cap : Capacity) (s : State), s.status.busy = false → s.pos = ⟨0#13, 0#13, 0#3, 0#3⟩ →
    exec (.pnew cap) s = .next
      { State.reset with
        table := { State.reset.table with cap := cap }, result := s.result
        port := s.port, grid := s.grid, resetPin := s.resetPin
        responses := s.responses ++ [{ code := .ok, value := 0#16 }] }) ∧
  (∀ c : TrueColor, lookupOrInsert (construct 0#9) c = .capacityExceeded) ∧ serialize (construct 0#9) = []

/-- R124: what `LookupOrInsert` answers and changes: the hit test first, then the full test, then the insertion at `NEXT_FREE`;
and the same in the list representation of R37. -/
def Obligations.LookupOrInsertProcedure : Prop :=
  ∀ (t : PaletteTable) (c : TrueColor), TableInv t →
    (∀ slot, storeRead t.fwd (quantize c).toNat = some slot →
      lookupOrInsert t c = .hit slot ∧ (slotList t)[slot.toNat]? = some (quantize c)) ∧
    (storeRead t.fwd (quantize c).toNat = none → t.nextFree = t.cap →
      lookupOrInsert t c = .capacityExceeded ∧ quantize c ∉ slotList t ∧ (slotList t).length = t.cap.toNat) ∧
    (storeRead t.fwd (quantize c).toNat = none → t.nextFree ≠ t.cap →
      ∃ slot t', lookupOrInsert t c = .inserted slot t' ∧ slot.toNat = t.nextFree.toNat ∧
        t'.cap = t.cap ∧ t'.nextFree.toNat = t.nextFree.toNat + 1 ∧
        (∀ k, storeRead t'.fwd k = if k = (quantize c).toNat then some slot else storeRead t.fwd k) ∧
        (∀ i, storeRead t'.rev i = if i = slot.toNat then some (quantize c) else storeRead t.rev i) ∧
        quantize c ∉ slotList t ∧ slotList t' = slotList t ++ [quantize c] ∧ slot.toNat = (slotList t).length)

/-- R125: PLKI's three outcomes, each with everything it changes; its word; the first lookup after a construction with room
gives slot 0. -/
def Obligations.PlkiCommand : Prop :=
  (∀ c : TrueColor, TakesWord (.plki c)
    (BitVec.ofNat 40 (0x03 * 2 ^ 32 + c.a.toNat * 2 ^ 24 + c.b.toNat * 2 ^ 16 + c.g.toNat * 2 ^ 8 + c.r.toNat))) ∧
  (∀ (c : TrueColor) (s : State) (slot : Slot), storeRead s.table.fwd (quantize c).toNat = some slot →
    exec (.plki c) s = .next
      { s with
        result := slot.setWidth 16
        status := { s.status with err := .ok }
        responses := s.responses ++ [{ code := .ok, value := slot.setWidth 16 }] }) ∧
  (∀ (c : TrueColor) (s : State), storeRead s.table.fwd (quantize c).toNat = none → s.table.nextFree = s.table.cap →
    exec (.plki c) s = .next (onlyCode .capacityExceeded s)) ∧
  (∀ (c : TrueColor) (s : State), TableInv s.table →
    storeRead s.table.fwd (quantize c).toNat = none → s.table.nextFree ≠ s.table.cap →
    exec (.plki c) s = .next
      { s with
        table :=
          { s.table with
            nextFree := s.table.nextFree + 1#9
            fwd := storeWrite s.table.fwd (quantize c).toNat (s.table.nextFree.setWidth 8)
            rev := storeWrite s.table.rev s.table.nextFree.toNat (quantize c) }
        plen := 0#10, pbuf := []
        result := s.table.nextFree.setWidth 16
        status := { s.status with err := .ok, pvalid := false }
        responses := s.responses ++ [{ code := .ok, value := s.table.nextFree.setWidth 16 }] }) ∧
  (∀ (c : TrueColor) (cap : Capacity) (s : State), 1 ≤ cap.toNat → s.table = construct cap →
    ∃ t, exec (.plki c) s = .next t ∧ t.result = 0#16 ∧ t.status.err = .ok)

/-- R126, which the spec derives from R124 and R29: a lookup that succeeded succeeds again with the same slot and changes
nothing, at once and after any further lookups. -/
def Obligations.RepeatedLookupIsIdempotent : Prop :=
  ∀ (t : PaletteTable) (c c' : TrueColor) (slot : Slot), (lookupReply t c).1 = some slot → quantize c' = quantize c →
    lookupReply (lookupReply t c).2 c' = (some slot, (lookupReply t c).2) ∧
    ∀ cs, lookupReply (lookupAll (lookupReply t c).2 cs).2 c' = (some slot, (lookupAll (lookupReply t c).2 cs).2)

/-- R127, which the spec derives from R124: from an empty table, each lookup's reply is the rank of its colour in order of
first occurrence, or a failure from rank `cap` on; the results depend on the quantized sequence alone. -/
def Obligations.LookupsAreDeterminedByFirstOccurrence : Prop :=
  (∀ (cap : Capacity) (cs : List TrueColor), cap.toNat ≤ 256 →
    (lookupAll (construct cap) cs).1 = cs.map (fun c =>
      if (distinctColors cs).idxOf (quantize c) < cap.toNat then
        some (BitVec.ofNat 8 ((distinctColors cs).idxOf (quantize c)))
      else none) ∧
    (lookupAll (construct cap) cs).2.nextFree.toNat = min (distinctColors cs).length cap.toNat ∧
    (∀ j d, j < cap.toNat → (distinctColors cs)[j]? = some d →
      storeRead (lookupAll (construct cap) cs).2.rev j = some d)) ∧
  (∀ (t : PaletteTable) (cs cs' : List TrueColor), cs.map quantize = cs'.map quantize → lookupAll t cs = lookupAll t cs')

/-- R128, which the spec derives from R127: the first `cap` distinct colours succeed with indices 0 to `cap - 1`, and the
lookup that presents the `(cap + 1)`-th distinct colour is the first to fail. -/
def Obligations.CapacityBoundary : Prop :=
  ∀ (cap : Capacity) (cs : List TrueColor) (n : Nat) (c : TrueColor), cap.toNat ≤ 256 → cs[n]? = some c →
    (∀ j, (distinctColors cs)[j]? = some (quantize c) → j < cap.toNat →
      ∃ slot : Slot, (lookupAll (construct cap) cs).1[n]? = some (some slot) ∧ slot.toNat = j) ∧
    (((lookupAll (construct cap) cs).1[n]? = some none ∧
        ∀ k, k < n → (lookupAll (construct cap) cs).1[k]? ≠ some none) ↔
      ((distinctColors (cs.take n)).length = cap.toNat ∧ quantize c ∉ distinctColors (cs.take n)))

/-- R129, which the spec derives from R124: a lookup keeps the table invariant; a hit and a failure change nothing. -/
def Obligations.LookupKeepsTableInvariant : Prop :=
  ∀ (t : PaletteTable) (c : TrueColor), TableInv t →
    TableInv (lookupReply t c).2 ∧
    ((∀ slot t', lookupOrInsert t c ≠ .inserted slot t') → (lookupReply t c).2 = t) ∧
    (∀ slot t', lookupOrInsert t c = .inserted slot t' →
      (∀ k, storeRead t.fwd k ≠ some slot) ∧ (∀ i, storeRead t.rev i ≠ some (quantize c)) ∧
      t'.nextFree.toNat ≤ t'.cap.toNat)

/-- R130: the serialization is exactly `2 × CAP` bytes, slot `i` at offsets `2i` and `2i + 1` low byte first, zeros for a slot
never allocated. -/
def Obligations.SerializeLayout : Prop :=
  ∀ t : PaletteTable,
    (∀ j, (storeRead (serialize t) j).isSome = true ↔ j < 2 * t.cap.toNat) ∧
    (∀ i hc, i < t.cap.toNat → i < t.nextFree.toNat → storeRead t.rev i = some hc →
      storeRead (serialize t) (2 * i) = some (hc.extractLsb' 0 8) ∧
      storeRead (serialize t) (2 * i + 1) = some (hc.extractLsb' 8 8)) ∧
    (∀ i, i < t.cap.toNat → t.nextFree.toNat ≤ i →
      storeRead (serialize t) (2 * i) = some 0#8 ∧ storeRead (serialize t) (2 * i + 1) = some 0#8) ∧
    (serialize t).length = 2 * t.cap.toNat

/-- R131: PSER fills `PBUF` with the serialization, makes it valid, and changes nothing else; its word. Bit 7 of every byte at
an odd offset is 0, which the spec marks as derived from R81. -/
def Obligations.PserCommand : Prop :=
  TakesWord .pser 0x0400000000#40 ∧
  (∀ s : State, exec .pser s = .next
    { s with
      pbuf := serialize s.table
      plen := BitVec.ofNat 10 (2 * s.table.cap.toNat)
      status := { s.status with err := .ok, pvalid := true }
      responses := s.responses ++ [{ code := .ok, value := 0#16 }] }) ∧
  (∀ s : State, (BitVec.ofNat 10 (2 * s.table.cap.toNat)).toNat = 2 * s.table.cap.toNat) ∧
  (∀ (t : PaletteTable) (i : Nat) (b : Byte), TableInv t → storeRead (serialize t) (2 * i + 1) = some b →
    b.getLsbD 7 = false) ∧
  (∀ (s : State) (j : Nat), TableInv s.table → s.status.busy = false → PaletteInv s → 2 * s.table.cap.toNat ≤ j →
    storeRead (serialize s.table) j = storeRead s.pbuf j)

/-- R132, which the spec derives from R131 and R57: after PSER, the two little-endian bytes of an allocated slot give its
HardwareColor, those of an unallocated slot give 0; the host reads them so. -/
def Obligations.SerializationRoundTrip : Prop :=
  ∀ s : State, TableInv s.table → ∃ t, exec .pser s = .next t ∧ t.table = s.table ∧
    (∀ i hc, i < s.table.nextFree.toNat → storeRead s.table.rev i = some hc →
      memRead t.pbuf (2 * i) 2 = some hc.toNat ∧
      (s.status.busy = false → hostMemRead .pbuf (2 * i) 2 t = some hc.toNat)) ∧
    (∀ i, s.table.nextFree.toNat ≤ i → i < s.table.cap.toNat →
      memRead t.pbuf (2 * i) 2 = some 0 ∧ (s.status.busy = false → hostMemRead .pbuf (2 * i) 2 t = some 0))

/-- R133, which the spec derives from R131: two PSERs with only commands between them that leave the table write identical
buffers. -/
def Obligations.RepeatedPserWritesTheSame : Prop :=
  ∀ (is : List Instr) (s t u : State), exec .pser s = .next t → AllLeaveTable is t → runCommands is t = .next u →
    ∃ v, exec .pser u = .next v ∧ v.pbuf = t.pbuf ∧ v.plen = t.plen ∧ v.table = s.table

/-! ### The Tile Encoder (`42_tile_encoder.md`) -/

/-- R191, R151: a dimension that is no multiple of 8 raises DimensionError, whatever the grid and the other dimension, at both
levels; only the code changes. -/
def Obligations.DimensionErrorChangesOnlyTheCode : Prop :=
  ∀ (w h : Dim) (s : State), w.toNat % 8 ≠ 0 ∨ h.toNat % 8 ≠ 0 →
    exec (.encode w h) s = .next (onlyCode .dimensionError s) ∧
    fineExec (.encode w h) s = .next (onlyCode .dimensionError s)

/-- R164: an ENCODE of a grid with no pixel succeeds, reads no pixel, and leaves an empty table and an empty stream. -/
def Obligations.EmptyGridSucceeds : Prop :=
  ∀ (w h : Dim) (s : State), w.toNat % 8 = 0 → h.toNat % 8 = 0 → w = 0#16 ∨ h = 0#16 →
    exec (.encode w h) s = .next
      (encodeDone w h { cap := 256#9, nextFree := 0#9, fwd := [], rev := [] } [] s)

/-- R160, which the spec derives from R154 and R155: the rank formulas are inverse bijections between the ranks below `W × H`
and the grid positions, and the loop nest visits position `k` at rank `k`. -/
def Obligations.TraversalRankIsABijection : Prop :=
  ∀ w h : Dim, w.toNat % 8 = 0 → h.toNat % 8 = 0 →
    (walkOrder w h).length = w.toNat * h.toNat ∧
    (∀ k, k < w.toNat * h.toNat →
      (walkOrder w h)[k]? = some (rankX w k, rankY w k) ∧ rankX w k < w.toNat ∧ rankY w k < h.toNat ∧
        rankOf w (rankX w k) (rankY w k) = k) ∧
    (∀ x y, x < w.toNat → y < h.toNat →
      rankOf w x y < w.toNat * h.toNat ∧ rankX w (rankOf w x y) = x ∧ rankY w (rankOf w x y) = y)

/-- R161, which the spec derives from R150 and R127: an ENCODE whose grid has at most 256 distinct quantized colours succeeds;
the palette is those colours in the order the walk first meets them, each output byte the position of its pixel's colour in
that palette, and indices appear in increasing order of first use. -/
def Obligations.EncodeOutputsInClosedForm : Prop :=
  ∀ (w h : Dim) (s : State) (cs : List TrueColor), w.toNat % 8 = 0 → h.toNat % 8 = 0 → TraversalPixels s.grid w h cs →
    (distinctColors cs).length ≤ 256 →
    ∃ t, exec (.encode w h) s = .next t ∧ t = encodeDone w h t.table t.out s ∧
      t.table.cap.toNat = 256 ∧ t.table.nextFree.toNat = (distinctColors cs).length ∧
      (∀ j d, (distinctColors cs)[j]? = some d →
        storeRead t.table.rev j = some d ∧ ∃ slot, storeRead t.table.fwd d.toNat = some slot ∧ slot.toNat = j) ∧
      (∀ hc : HardwareColor, hc ∉ distinctColors cs → storeRead t.table.fwd hc.toNat = none) ∧
      t.ocnt.toNat = w.toNat * h.toNat ∧
      (∀ k c, cs[k]? = some c →
        ∃ b, storeRead t.out k = some b ∧ (distinctColors cs)[b.toNat]? = some (quantize c)) ∧
      (∀ k, w.toNat * h.toNat ≤ k → storeRead t.out k = none) ∧
      (0 < w.toNat * h.toNat → storeRead t.out 0 = some 0#8) ∧
      (∀ k b, 0 < k → storeRead t.out k = some b →
        ∃ j b', j < k ∧ storeRead t.out j = some b' ∧ b.toNat ≤ b'.toNat + 1)

/-- Only an ENCODE fails with TooManyColors, and it then leaves the reset state but for `ERR` and `RESULT` (R193); it fails so
exactly when its grid has more than 256 distinct quantized colours (R150, which gives R162 for it, a rule the spec derives). -/
def Obligations.TooManyColorsDiscardsTheJob : Prop :=
  (∀ (w h : Dim) (s : State) (cs : List TrueColor), w.toNat % 8 = 0 → h.toNat % 8 = 0 → TraversalPixels s.grid w h cs →
    (256 < (distinctColors cs).length → exec (.encode w h) s = .next (jobDiscarded s)) ∧
    (∀ t, exec (.encode w h) s = .next t → t.status.err = .tooManyColors → 256 < (distinctColors cs).length)) ∧
  (∀ (i : Instr) (s t : State), exec i s = .next t → t.status.err = .tooManyColors →
    (∃ w h, i = .encode w h) ∧ t = jobDiscarded s) ∧
  errBits .tooManyColors = 3#3

/-- R162, which the spec derives from R154, R157 and R128: the failing PIXSTEP is at the first occurrence of the 257th distinct
colour; exactly that many bytes had been appended. -/
def Obligations.EncodeFailurePoint : Prop :=
  ∀ (w h : Dim) (s : State) (cs : List TrueColor), w.toNat % 8 = 0 → h.toNat % 8 = 0 → TraversalPixels s.grid w h cs →
    256 < (distinctColors cs).length → s.resetPin = false →
    ∃ kstar, 256 ≤ kstar ∧ kstar < w.toNat * h.toNat ∧
      (cs[kstar]?).map quantize = (distinctColors cs)[256]? ∧
      (∀ j, j < kstar → (cs[j]?).map quantize ≠ (distinctColors cs)[256]?) ∧
      ∃ s0 u, fineExec (.encode w h) s = .next s0 ∧ runSteps fineStep kstar s0 = .next u ∧
        u.status.busy = true ∧ u.ocnt.toNat = kstar ∧ pixelX u.pos = rankX w kstar ∧ pixelY u.pos = rankY w kstar ∧
        fineStep u = .next (jobDiscarded s)

/-- The abort reads no pixel after the failing one (R157, R53): once the pixels up to some rank hold more than 256 distinct
colours, the ENCODE fails the same whatever the rest of the grid is, be it undefined. -/
def Obligations.AbortReadsNoLaterPixel : Prop :=
  ∀ (w h : Dim) (s : State) (cs : List TrueColor), w.toNat % 8 = 0 → h.toNat % 8 = 0 →
    cs.length ≤ w.toNat * h.toNat →
    (∀ k, k < cs.length → gridRead s.grid (rankX w k) (rankY w k) = cs[k]?) →
    256 < (distinctColors cs).length → exec (.encode w h) s = .next (jobDiscarded s)

/-- R163, which the spec derives from R160: the 64 bytes of tile `t` are that tile's pixels' slots, row-major inside the
tile. -/
def Obligations.StreamIsInTileOrder : Prop :=
  ∀ (w h : Dim) (s : State) (cs : List TrueColor), w.toNat % 8 = 0 → h.toNat % 8 = 0 → TraversalPixels s.grid w h cs →
    (distinctColors cs).length ≤ 256 →
    ∃ t, exec (.encode w h) s = .next t ∧
      ∀ tile srow scol, tile < tileCount w * tileCount h → srow < 8 → scol < 8 →
        ∃ c b, gridRead s.grid (tile % tileCount w * 8 + scol) (tile / tileCount w * 8 + srow) = some c ∧
          storeRead t.out (64 * tile + 8 * srow + scol) = some b ∧
          storeRead t.table.fwd (quantize c).toNat = some b

/-- R159, which the spec derives from R150 to R157: from an idle state, the start step, the PIXSTEPs and the completion or
abort end in the state and response (or, by log entry 4, the refusal of an undefined grid) of the atomic command, within `W × H
+ 2` steps. -/
def Obligations.StepLevelAgreesWithCommandLevel : Prop :=
  ∀ (s : State) (r : Request) (rest : List Request) (w h : Dim), Accepts s r rest → s.pos = ⟨0#13, 0#13, 0#3, 0#3⟩ →
    decode r.word = .command (.encode w h) →
    ∃ n, n ≤ w.toNat * h.toNat + 2 ∧ runSteps fineStep n s = step s

/-- R152: the start step constructs a fresh table of capacity 256, latches the dimensions, drops both outputs, zeroes `POS` and
sets `BUSY`. -/
def Obligations.EncodeStartStep : Prop :=
  ∀ (w h : Dim) (s : State) (r : Request) (rest : List Request), Accepts s r rest →
    decode r.word = .command (.encode w h) → w.toNat % 8 = 0 → h.toNat % 8 = 0 →
    fineStep s = .next
      { taken s r rest with
        table := { cap := 256#9, nextFree := 0#9, fwd := [], rev := [] }, w := w, h := h
        pos := ⟨0#13, 0#13, 0#3, 0#3⟩, ocnt := 0#32, out := [], plen := 0#10, pbuf := []
        status := { s.status with ovalid := false, pvalid := false, busy := true } }

/-- R154: in phase RUN below `W × H`, the pixel `POS` names is in the grid, which the spec marks as derived from R153 and R27, and
the PIXSTEP appends its slot and advances, or aborts when its colour is new and the table full. -/
def Obligations.PixstepEffect : Prop :=
  ∀ s : State, BlockInv s → s.resetPin = false → s.status.busy = true → s.ocnt.toNat < s.w.toNat * s.h.toNat →
    pixelX s.pos < s.w.toNat ∧ pixelY s.pos < s.h.toNat ∧
    pixelX s.pos = (s.pos.tcol ++ s.pos.scol).toNat ∧ pixelY s.pos = (s.pos.trow ++ s.pos.srow).toNat ∧
    ∀ c, gridRead s.grid (pixelX s.pos) (pixelY s.pos) = some c →
      (∀ slot, lookupOrInsert s.table c = .hit slot →
        fineStep s = .next
          { s with
            out := storeWrite s.out s.ocnt.toNat slot, ocnt := s.ocnt + 1#32, pos := advance s.w s.h s.pos }) ∧
      (∀ slot t, lookupOrInsert s.table c = .inserted slot t →
        fineStep s = .next
          { s with
            table := t
            out := storeWrite s.out s.ocnt.toNat slot, ocnt := s.ocnt + 1#32, pos := advance s.w s.h s.pos }) ∧
      (lookupOrInsert s.table c = .capacityExceeded → fineStep s = .next (jobDiscarded s)) ∧
      (s.ocnt + 1#32).toNat = s.ocnt.toNat + 1

/-- R155: `advance` adds one to the mixed-radix number of the position, wrapping to zero after the last pixel, and stays in
range. -/
def Obligations.AdvanceAddsOneInMixedRadix : Prop :=
  ∀ (w h : Dim) (p : Pos), p.trow.toNat < tileCount h → p.tcol.toNat < tileCount w →
    posValue w (advance w h p) = (posValue w p + 1) % (64 * tileCount w * tileCount h) ∧
    (advance w h p).trow.toNat < tileCount h ∧ (advance w h p).tcol.toNat < tileCount w

/-- The transition of R156: at `OCNT = W × H` the completion step zeroes `POS`, clears `BUSY`, sets `OVALID` and responds
Ok(0); the table and the stream stay. -/
def Obligations.CompletionStep : Prop :=
  ∀ s : State, s.resetPin = false → s.status.busy = true → s.ocnt.toNat = s.w.toNat * s.h.toNat →
    fineStep s = .next
      { s with
        pos := ⟨0#13, 0#13, 0#3, 0#3⟩
        status := { s.status with err := .ok, ovalid := true, busy := false }
        responses := s.responses ++ [{ code := .ok, value := 0#16 }] }

/-- The last part of R158, which the spec derives from R154 and R156: phase RUN ends: a running ENCODE whose grid is defined
reaches an idle state within the pixels it has left plus one step. -/
def Obligations.RunPhaseEnds : Prop :=
  ∀ s : State, BlockInv s → s.resetPin = false → s.status.busy = true → GridCovers s.grid s.w s.h →
    ∃ n t, n ≤ s.w.toNat * s.h.toNat - s.ocnt.toNat + 1 ∧ runSteps fineStep n s = .next t ∧ t.status.busy = false ∧
      (t.status.err = .ok ∨ t.status.err = .tooManyColors) ∧ t.port = s.port

/-- The result of an ENCODE is a function of its dimensions and grid alone (`90_conflicts.md` C9, R244): nothing of the previous
job reaches the table or the outputs. -/
def Obligations.EncodeForgetsThePreviousJob : Prop :=
  ∀ (w h : Dim) (s1 s2 t1 : State), s1.grid = s2.grid → w.toNat % 8 = 0 → h.toNat % 8 = 0 →
    exec (.encode w h) s1 = .next t1 →
    ∃ t2, exec (.encode w h) s2 = .next t2 ∧ t2.table = t1.table ∧ t2.out = t1.out ∧ t2.ocnt = t1.ocnt ∧ t2.w = t1.w ∧
      t2.h = t1.h ∧ t2.pbuf = t1.pbuf ∧ t2.plen = t1.plen ∧ t2.status.err = t1.status.err ∧
      t2.status.ovalid = t1.status.ovalid ∧ t2.status.pvalid = t1.status.pvalid

/-- The block reads no position outside the grid (R52): two grids that agree on the positions of a `w × h` image give the same
outcome. -/
def Obligations.EncodeReadsOnlyInsideTheGrid : Prop :=
  ∀ (w h : Dim) (s : State) (g : Grid),
    (∀ x y, x < w.toNat → y < h.toNat → gridRead g x y = gridRead s.grid x y) →
    (∀ t, exec (.encode w h) s = .next t → exec (.encode w h) { s with grid := g } = .next { t with grid := g }) ∧
    (∀ e, exec (.encode w h) s = .refused e → exec (.encode w h) { s with grid := g } = .refused e)

/-- The model's one refusal (log entry 4, from U6): a meaning is refused only for an ENCODE, and names a position of the image
that the host's grid does not define. -/
def Obligations.RefusedOnlyByAnUndefinedPixel : Prop :=
  ∀ (i : Instr) (s : State),
    (∀ f, exec i s ≠ .fault f) ∧
    ∀ e, exec i s = .refused e → ∃ w h x y, i = .encode w h ∧ e = .gridUndefined x y ∧
      x < w.toNat ∧ y < h.toNat ∧ gridRead s.grid x y = none

/-! ### The step and the host's side (`60_exceptions.md`, `70_reset_and_hazards.md`, `20_memory.md`) -/

/-- An idle block with its reset input released runs the command its next word decodes to, with the grid presented beside it
(R84, R241; log entry 2); at the step level the same, an ENCODE being its start step. -/
def Obligations.StepRunsTheDecodedCommand : Prop :=
  ∀ (s : State) (r : Request) (rest : List Request) (i : Instr), s.resetPin = false → s.status.busy = false →
    s.port = r :: rest → decode r.word = .command i →
    step s = exec i { s with port := rest, grid := r.grid } ∧ fineStep s = fineExec i { s with port := rest, grid := r.grid }

/-- An idle block with no command to take holds all its state (R211; log entry 2). -/
def Obligations.IdleBlockHoldsItsState : Prop :=
  ∀ s : State, s.resetPin = false → s.status.busy = false → s.port = [] → step s = .next s ∧ fineStep s = .next s

/-- In phase RUN a step takes no command, changes no grid, and leaves the host unable to read anything (R241, R158). That both
levels take this same one step, the sequencer's, is the model's choice (log entry 1). -/
def Obligations.RunPhaseTakesNoCommand : Prop :=
  ∀ s : State, s.resetPin = false → s.status.busy = true →
    step s = fineStep s ∧ step s = sequencerStep s ∧
    (∀ t, step s = .next t → t.port = s.port ∧ t.grid = s.grid ∧ t.resetPin = false) ∧
    (∀ r, hostReadRegister r s = none) ∧ (∀ sp addr n, 0 < n → hostMemRead sp addr n s = none)

/-- R194: an illegal command raises IllegalCommand at both levels: its code, its response, and nothing else. -/
def Obligations.IllegalCommandEntry : Prop :=
  ∀ (s : State) (r : Request) (rest : List Request) (why : IllegalReason), Accepts s r rest → decode r.word = .illegal why →
    ∃ t, step s = .next t ∧ fineStep s = .next t ∧ t.status = { s.status with err := .illegalCommand } ∧
      errBits t.status.err = 4#3 ∧ t.responses = s.responses ++ [{ code := .illegalCommand, value := 0#16 }] ∧
      t = { s with status := t.status, responses := t.responses, port := rest, grid := r.grid }

/-- R230, R231 (held pin and host side: log entry 8): asserted at any time, even in phase RUN, the reset input gives every piece
of the block's state its reset value, with no response. -/
def Obligations.ResetInputGivesTheResetState : Prop :=
  ∀ s : State, s.resetPin = true →
    step s = .next { State.reset with port := s.port, grid := s.grid, responses := s.responses } ∧
    fineStep s = .next { State.reset with port := s.port, grid := s.grid, responses := s.responses }

/-- R39: the reset values of the block's state, and that the reset state meets the invariants R33 to R36, which the spec marks
as derived by inspection of the table. -/
def Obligations.ResetStateValues : Prop :=
  State.reset.table.cap = 256#9 ∧ State.reset.table.nextFree = 0#9 ∧
  (∀ c : BitVec 15, storeRead State.reset.table.fwd c.toNat = none) ∧ (∀ i, storeRead State.reset.table.rev i = none) ∧
  State.reset.w = 0#16 ∧ State.reset.h = 0#16 ∧ State.reset.pos = ⟨0#13, 0#13, 0#3, 0#3⟩ ∧ State.reset.ocnt = 0#32 ∧
  (∀ k, storeRead State.reset.out k = none) ∧ (∀ j, storeRead State.reset.pbuf j = none) ∧ State.reset.plen = 0#10 ∧
  State.reset.result = 0x0000#16 ∧ statusWord State.reset.status = 0x0000#16 ∧
  State.reset.status = { err := .ok, ovalid := false, pvalid := false, busy := false } ∧ BlockInv State.reset

/-- R33: every step at either level keeps the table invariant, whose maps are inverses, with the bounds of R34. So the allocated
entries are pairwise distinct and the colours that have a slot are as many as `NEXT_FREE`, which the spec marks as derived from
R33. -/
def Obligations.StepKeepsTheTableInvariant : Prop :=
  TableInv State.reset.table ∧
  (∀ s t, TableInv s.table → step s = .next t ∨ fineStep s = .next t → TableInv t.table) ∧
  (∀ t, TableInv t →
    (∀ i j hc, storeRead t.rev i = some hc → storeRead t.rev j = some hc → i = j) ∧ t.fwd.length = t.nextFree.toNat)

/-- R35, R36, which the spec derives, and what holds in phase RUN: every step at either level keeps the invariant of the
block. -/
def Obligations.StepKeepsTheInvariant : Prop :=
  ∀ s t, BlockInv s → step s = .next t ∨ fineStep s = .next t → BlockInv t

/-- Every step at either level keeps the four spaces in canonical form, whatever else the state holds. The form, lists with
strictly rising keys, is the model's choice of representation (log entry 6 for `FWD` and `REV`, 7 for `OUT` and `PBUF`). -/
def Obligations.StepKeepsSpacesCanonical : Prop :=
  ∀ s t, SpacesWf s → step s = .next t ∨ fineStep s = .next t → SpacesWf t

/-- From a state that meets the invariant, with the host meeting its duties (R232, R242), every step at either level goes on: no
fault and no refusal. -/
def Obligations.StepGoesOnUnderTheHostsDuties : Prop :=
  ∀ s, BlockInv s → HostDuty s → Continues (step s) ∧ Continues (fineStep s)

/-- From R91: every accepted command that completes delivers exactly one response, whose code is left in `STATUS.ERR` and whose
value is the HardwareColor of a QUANT, the slot of a successful PLKI, and 0 otherwise. -/
def Obligations.OneResponsePerCommand : Prop :=
  (∀ (i : Instr) (s t : State), exec i s = .next t →
    ∃ v, t.responses = s.responses ++ [{ code := t.status.err, value := v }] ∧
      (∀ c, i = .quant c → t.status.err = .ok ∧ v = quantize c ∧ t.result = v) ∧
      (∀ c, i = .plki c → t.status.err = .ok → t.result = v ∧
        ∃ slot, storeRead t.table.fwd (quantize c).toNat = some slot ∧ v = slot.setWidth 16) ∧
      (∀ c, i = .plki c → t.status.err ≠ .ok → v = 0#16) ∧
      (∀ cap, i = .pnew cap → v = 0#16) ∧ (i = .pser → v = 0#16) ∧ (∀ w h, i = .encode w h → v = 0#16)) ∧
  (∀ s r rest why, Accepts s r rest → decode r.word = .illegal why → ∃ t, step s = .next t ∧
    t.status.err = .illegalCommand ∧ t.responses = s.responses ++ [{ code := .illegalCommand, value := 0#16 }])

/-- R202, which the spec derives from R190 to R194: which command can end with which code, and when. -/
def Obligations.CodesEachCommandCanEndWith : Prop :=
  (∀ (i : Instr) (s t : State), exec i s = .next t →
    (∀ c, i = .quant c → t.status.err = .ok) ∧
    (∀ cap, i = .pnew cap → t.status.err = .ok) ∧
    (∀ c, i = .plki c → (t.status.err = .ok ∨ t.status.err = .capacityExceeded) ∧
      (t.status.err = .capacityExceeded ↔
        storeRead s.table.fwd (quantize c).toNat = none ∧ s.table.nextFree = s.table.cap)) ∧
    (i = .pser → t.status.err = .ok) ∧
    (∀ w h, i = .encode w h →
      (t.status.err = .ok ∨ t.status.err = .dimensionError ∨ t.status.err = .tooManyColors) ∧
      (t.status.err = .dimensionError ↔ w.toNat % 8 ≠ 0 ∨ h.toNat % 8 ≠ 0) ∧
      ∀ cs, w.toNat % 8 = 0 → h.toNat % 8 = 0 → TraversalPixels s.grid w h cs →
        (t.status.err = .tooManyColors ↔ 256 < (distinctColors cs).length))) ∧
  (∀ s r rest why, Accepts s r rest → decode r.word = .illegal why →
    ∃ t, step s = .next t ∧ t.status.err = .illegalCommand)

/-- From R23: `RESULT` is written by a QUANT and by a PLKI that succeeds, and by nothing else: no other command, no failing
command, no illegal word, no step of a running ENCODE. -/
def Obligations.ResultWrittenOnlyByQuantAndPlki : Prop :=
  (∀ (i : Instr) (s t : State), exec i s = .next t →
    (∀ c, i = .quant c → t.result = quantize c) ∧
    (∀ c slot, i = .plki c → lookupOrInsert s.table c = .hit slot → t.result.toNat = slot.toNat) ∧
    (∀ c slot u, i = .plki c → lookupOrInsert s.table c = .inserted slot u → t.result.toNat = slot.toNat) ∧
    (∀ c, i = .plki c → lookupOrInsert s.table c = .capacityExceeded → t.result = s.result) ∧
    ((∀ c, i ≠ .quant c) → (∀ c, i ≠ .plki c) → t.result = s.result)) ∧
  (∀ s t, sequencerStep s = .next t → t.result = s.result) ∧
  (∀ s r rest why, Accepts s r rest → decode r.word = .illegal why → ∃ t, step s = .next t ∧ t.result = s.result)

/-- The set and clear conditions of `OVALID` and `PVALID` (R24, R243), and that clearing `PVALID` empties `PBUF` and clearing
`OVALID` empties `OUT` (R31, R54). -/
def Obligations.ValidityFlagsFollowTheTable : Prop :=
  ∀ (i : Instr) (s t : State), exec i s = .next t →
    (∀ c, i = .quant c → t.status.ovalid = s.status.ovalid ∧ t.status.pvalid = s.status.pvalid) ∧
    (∀ cap, i = .pnew cap → t.status.ovalid = false ∧ t.status.pvalid = false) ∧
    (∀ c, i = .plki c → t.status.ovalid = s.status.ovalid ∧
      (t.table = s.table → t.status.pvalid = s.status.pvalid ∧ t.pbuf = s.pbuf ∧ t.plen = s.plen) ∧
      (∀ slot u, lookupOrInsert s.table c = .inserted slot u → t.status.pvalid = false ∧ t.pbuf = [] ∧ t.plen = 0#10)) ∧
    (i = .pser → t.status.ovalid = s.status.ovalid ∧ t.status.pvalid = true) ∧
    (∀ w h, i = .encode w h → w.toNat % 8 = 0 → h.toNat % 8 = 0 →
      (t.status.ovalid = true ↔ t.status.err = .ok) ∧ t.status.pvalid = false) ∧
    (t.status.ovalid = false → s.status.ovalid = true → t.out = [] ∧ t.ocnt = 0#32) ∧
    (t.status.pvalid = false → s.status.pvalid = true → t.pbuf = [] ∧ t.plen = 0#10)

/-- `CAP` is written by construction alone, and `NEXT_FREE` falls only there (R21, R22). -/
def Obligations.CapacityAndCountChangeOnlyAsStated : Prop :=
  ∀ (i : Instr) (s t : State), TableInv s.table → exec i s = .next t →
    (∀ cap, i = .pnew cap → t.table.cap = cap ∧ t.table.nextFree = 0#9) ∧
    (∀ w h, i = .encode w h → w.toNat % 8 = 0 → h.toNat % 8 = 0 → t.table.cap.toNat = 256) ∧
    ((∀ cap, i ≠ .pnew cap) → (∀ w h, i = .encode w h → w.toNat % 8 ≠ 0 ∨ h.toNat % 8 ≠ 0) →
      t.table.cap = s.table.cap ∧ s.table.nextFree.toNat ≤ t.table.nextFree.toNat ∧
        t.table.nextFree.toNat ≤ s.table.nextFree.toNat + 1) ∧
    ((∀ cap, i ≠ .pnew cap) → (∀ c, i ≠ .plki c) → (∀ w h, i ≠ .encode w h) → t.table = s.table)

/-- The bytes and registers each command leaves alone: every byte of `OUT` and `PBUF` reads as before but for those it writes or
empties, and the host's side, `POS` and `BUSY` do not change. -/
def Obligations.CommandFrames : Prop :=
  ∀ (i : Instr) (s t : State), exec i s = .next t →
    (t.port = s.port ∧ t.grid = s.grid ∧ t.resetPin = s.resetPin) ∧
    ((∀ w h, i ≠ .encode w h) → t.pos = s.pos ∧ t.status.busy = s.status.busy) ∧
    (s.status.busy = false → s.pos = ⟨0#13, 0#13, 0#3, 0#3⟩ → t.status.busy = false ∧ t.pos = ⟨0#13, 0#13, 0#3, 0#3⟩) ∧
    (∀ c, i = .quant c ∨ i = .plki c ∨ i = .pser →
      t.w = s.w ∧ t.h = s.h ∧ t.ocnt = s.ocnt ∧ ∀ k, storeRead t.out k = storeRead s.out k) ∧
    (∀ c, i = .quant c → t.plen = s.plen ∧ ∀ j, storeRead t.pbuf j = storeRead s.pbuf j) ∧
    (∀ c, i = .plki c → (∀ slot u, lookupOrInsert s.table c ≠ .inserted slot u) →
      t.table = s.table ∧ t.plen = s.plen ∧ ∀ j, storeRead t.pbuf j = storeRead s.pbuf j) ∧
    (i = .pser → t.result = s.result ∧ t.table = s.table ∧
      ∀ j, 2 * s.table.cap.toNat ≤ j → storeRead t.pbuf j = none) ∧
    (∀ w h, i = .encode w h → t.result = s.result) ∧ (∀ cap, i = .pnew cap → t.result = s.result)

/-- The fields of the `STATUS` word (R24): the codes 0 to 4, the three flags, zeros above. -/
def Obligations.StatusWordLayout : Prop :=
  ∀ st : Status,
    (statusWord st).extractLsb' 0 3 = errBits st.err ∧ (errBits st.err).toNat ≤ 4 ∧
    (statusWord st).getLsbD 3 = st.ovalid ∧ (statusWord st).getLsbD 4 = st.pvalid ∧
    (statusWord st).getLsbD 5 = st.busy ∧ (statusWord st).extractLsb' 6 10 = 0#10 ∧
    errBits .ok = 0#3 ∧ errBits .dimensionError = 1#3 ∧ errBits .capacityExceeded = 2#3 ∧
    errBits .tooManyColors = 3#3 ∧ errBits .illegalCommand = 4#3

/-- From R57: a 16-bit write puts the low byte at the lower offset and leaves every other byte; reading it back gives the
value; the two bytes of a HardwareColor are `{G[2:0], R}` and `{0, B, G[4:3]}`. -/
def Obligations.LittleEndianWrites : Prop :=
  (∀ (m : Memory) (addr v : Nat), v < 2 ^ 16 →
    storeRead (memWrite m addr 2 v) addr = some (BitVec.ofNat 8 (v % 256)) ∧
    storeRead (memWrite m addr 2 v) (addr + 1) = some (BitVec.ofNat 8 (v / 256)) ∧
    memRead (memWrite m addr 2 v) addr 2 = some v ∧
    (∀ j, j ≠ addr → j ≠ addr + 1 → storeRead (memWrite m addr 2 v) j = storeRead m j)) ∧
  (∀ (m : Memory) (k : Nat) (b : Byte), storeRead (memWrite m k 1 b.toNat) k = some b ∧
    ∀ j, j ≠ k → storeRead (memWrite m k 1 b.toNat) j = storeRead m j) ∧
  (∀ (m : Memory) (addr n v : Nat), Memory.wf m = true → Memory.wf (memWrite m addr n v) = true) ∧
  (∀ hc : HardwareColor, hc.toNat < 32768 →
    hc.extractLsb' 0 8 = hc.extractLsb' 5 3 ++ hc.extractLsb' 0 5 ∧
    hc.extractLsb' 8 8 = 0#1 ++ hc.extractLsb' 10 5 ++ hc.extractLsb' 8 2)

/-- R69: the host reads a byte of `OUT` or `PBUF` only when the block is idle, the space valid and the offset below its length;
then it gets exactly the byte the rules wrote. -/
def Obligations.HostReadsOnlyValidBytes : Prop :=
  (∀ (k v : Nat) (s : State), hostMemRead .out k 1 s = some v →
    s.status.busy = false ∧ s.status.ovalid = true ∧ k < s.ocnt.toNat) ∧
  (∀ (j v : Nat) (s : State), hostMemRead .pbuf j 1 s = some v →
    s.status.busy = false ∧ s.status.pvalid = true ∧ j < s.plen.toNat) ∧
  (∀ (k : Nat) (s : State), BlockInv s → s.status.busy = false → s.status.ovalid = true → k < s.ocnt.toNat →
    ∃ b, storeRead s.out k = some b ∧ hostMemRead .out k 1 s = some b.toNat) ∧
  (∀ (j : Nat) (s : State), BlockInv s → s.status.busy = false → s.status.pvalid = true → j < s.plen.toNat →
    ∃ b, storeRead s.pbuf j = some b ∧ hostMemRead .pbuf j 1 s = some b.toNat)

/-- The expansions of R102: `CONVERT` is ENCODE and, if its response is Ok, PSER; if the ENCODE fails, PSER is not issued;
`PNEW256` is `PNEW 256`. -/
def Obligations.PseudoInstructionExpansions : Prop :=
  (∀ (w h : Dim) (s t : State), exec (.encode w h) s = .next t →
    (t.status.err = .ok → execPseudo (.convert w h) s = exec .pser t) ∧
    (t.status.err ≠ .ok → execPseudo (.convert w h) s = .next t)) ∧
  (∀ s : State, execPseudo .pnew256 s = exec (.pnew 256#9) s)
end

