-- ==== Sys2Proof/Laws/State.lean ====
section
/-! SUPPORT. One lemma per field per update of the state, so that no proof unfolds a record update. -/

namespace Sys2Proof.Machine

/-! ### `setErr` -/

@[simp] theorem setErr_table (code : ErrCode) (s : State) : (setErr code s).table = s.table := rfl
@[simp] theorem setErr_w (code : ErrCode) (s : State) : (setErr code s).w = s.w := rfl
@[simp] theorem setErr_h (code : ErrCode) (s : State) : (setErr code s).h = s.h := rfl
@[simp] theorem setErr_pos (code : ErrCode) (s : State) : (setErr code s).pos = s.pos := rfl
@[simp] theorem setErr_ocnt (code : ErrCode) (s : State) : (setErr code s).ocnt = s.ocnt := rfl
@[simp] theorem setErr_out (code : ErrCode) (s : State) : (setErr code s).out = s.out := rfl
@[simp] theorem setErr_pbuf (code : ErrCode) (s : State) : (setErr code s).pbuf = s.pbuf := rfl
@[simp] theorem setErr_plen (code : ErrCode) (s : State) : (setErr code s).plen = s.plen := rfl
@[simp] theorem setErr_result (code : ErrCode) (s : State) : (setErr code s).result = s.result := rfl
@[simp] theorem setErr_status (code : ErrCode) (s : State) : (setErr code s).status = { s.status with err := code } := rfl
@[simp] theorem setErr_port (code : ErrCode) (s : State) : (setErr code s).port = s.port := rfl
@[simp] theorem setErr_grid (code : ErrCode) (s : State) : (setErr code s).grid = s.grid := rfl
@[simp] theorem setErr_resetPin (code : ErrCode) (s : State) : (setErr code s).resetPin = s.resetPin := rfl
@[simp] theorem setErr_responses (code : ErrCode) (s : State) : (setErr code s).responses = s.responses := rfl

/-! ### `setOvalid` -/

@[simp] theorem setOvalid_table (v : Bool) (s : State) : (setOvalid v s).table = s.table := rfl
@[simp] theorem setOvalid_w (v : Bool) (s : State) : (setOvalid v s).w = s.w := rfl
@[simp] theorem setOvalid_h (v : Bool) (s : State) : (setOvalid v s).h = s.h := rfl
@[simp] theorem setOvalid_pos (v : Bool) (s : State) : (setOvalid v s).pos = s.pos := rfl
@[simp] theorem setOvalid_ocnt (v : Bool) (s : State) : (setOvalid v s).ocnt = s.ocnt := rfl
@[simp] theorem setOvalid_out (v : Bool) (s : State) : (setOvalid v s).out = s.out := rfl
@[simp] theorem setOvalid_pbuf (v : Bool) (s : State) : (setOvalid v s).pbuf = s.pbuf := rfl
@[simp] theorem setOvalid_plen (v : Bool) (s : State) : (setOvalid v s).plen = s.plen := rfl
@[simp] theorem setOvalid_result (v : Bool) (s : State) : (setOvalid v s).result = s.result := rfl
@[simp] theorem setOvalid_status (v : Bool) (s : State) : (setOvalid v s).status = { s.status with ovalid := v } := rfl
@[simp] theorem setOvalid_port (v : Bool) (s : State) : (setOvalid v s).port = s.port := rfl
@[simp] theorem setOvalid_grid (v : Bool) (s : State) : (setOvalid v s).grid = s.grid := rfl
@[simp] theorem setOvalid_resetPin (v : Bool) (s : State) : (setOvalid v s).resetPin = s.resetPin := rfl
@[simp] theorem setOvalid_responses (v : Bool) (s : State) : (setOvalid v s).responses = s.responses := rfl

/-! ### `setPvalid` -/

@[simp] theorem setPvalid_table (v : Bool) (s : State) : (setPvalid v s).table = s.table := rfl
@[simp] theorem setPvalid_w (v : Bool) (s : State) : (setPvalid v s).w = s.w := rfl
@[simp] theorem setPvalid_h (v : Bool) (s : State) : (setPvalid v s).h = s.h := rfl
@[simp] theorem setPvalid_pos (v : Bool) (s : State) : (setPvalid v s).pos = s.pos := rfl
@[simp] theorem setPvalid_ocnt (v : Bool) (s : State) : (setPvalid v s).ocnt = s.ocnt := rfl
@[simp] theorem setPvalid_out (v : Bool) (s : State) : (setPvalid v s).out = s.out := rfl
@[simp] theorem setPvalid_pbuf (v : Bool) (s : State) : (setPvalid v s).pbuf = s.pbuf := rfl
@[simp] theorem setPvalid_plen (v : Bool) (s : State) : (setPvalid v s).plen = s.plen := rfl
@[simp] theorem setPvalid_result (v : Bool) (s : State) : (setPvalid v s).result = s.result := rfl
@[simp] theorem setPvalid_status (v : Bool) (s : State) : (setPvalid v s).status = { s.status with pvalid := v } := rfl
@[simp] theorem setPvalid_port (v : Bool) (s : State) : (setPvalid v s).port = s.port := rfl
@[simp] theorem setPvalid_grid (v : Bool) (s : State) : (setPvalid v s).grid = s.grid := rfl
@[simp] theorem setPvalid_resetPin (v : Bool) (s : State) : (setPvalid v s).resetPin = s.resetPin := rfl
@[simp] theorem setPvalid_responses (v : Bool) (s : State) : (setPvalid v s).responses = s.responses := rfl

/-! ### `setBusy` -/

@[simp] theorem setBusy_table (v : Bool) (s : State) : (setBusy v s).table = s.table := rfl
@[simp] theorem setBusy_w (v : Bool) (s : State) : (setBusy v s).w = s.w := rfl
@[simp] theorem setBusy_h (v : Bool) (s : State) : (setBusy v s).h = s.h := rfl
@[simp] theorem setBusy_pos (v : Bool) (s : State) : (setBusy v s).pos = s.pos := rfl
@[simp] theorem setBusy_ocnt (v : Bool) (s : State) : (setBusy v s).ocnt = s.ocnt := rfl
@[simp] theorem setBusy_out (v : Bool) (s : State) : (setBusy v s).out = s.out := rfl
@[simp] theorem setBusy_pbuf (v : Bool) (s : State) : (setBusy v s).pbuf = s.pbuf := rfl
@[simp] theorem setBusy_plen (v : Bool) (s : State) : (setBusy v s).plen = s.plen := rfl
@[simp] theorem setBusy_result (v : Bool) (s : State) : (setBusy v s).result = s.result := rfl
@[simp] theorem setBusy_status (v : Bool) (s : State) : (setBusy v s).status = { s.status with busy := v } := rfl
@[simp] theorem setBusy_port (v : Bool) (s : State) : (setBusy v s).port = s.port := rfl
@[simp] theorem setBusy_grid (v : Bool) (s : State) : (setBusy v s).grid = s.grid := rfl
@[simp] theorem setBusy_resetPin (v : Bool) (s : State) : (setBusy v s).resetPin = s.resetPin := rfl
@[simp] theorem setBusy_responses (v : Bool) (s : State) : (setBusy v s).responses = s.responses := rfl

/-! ### `dropStream` -/

@[simp] theorem dropStream_table (s : State) : (dropStream s).table = s.table := rfl
@[simp] theorem dropStream_w (s : State) : (dropStream s).w = s.w := rfl
@[simp] theorem dropStream_h (s : State) : (dropStream s).h = s.h := rfl
@[simp] theorem dropStream_pos (s : State) : (dropStream s).pos = s.pos := rfl
@[simp] theorem dropStream_ocnt (s : State) : (dropStream s).ocnt = 0#32 := rfl
@[simp] theorem dropStream_out (s : State) : (dropStream s).out = [] := rfl
@[simp] theorem dropStream_pbuf (s : State) : (dropStream s).pbuf = s.pbuf := rfl
@[simp] theorem dropStream_plen (s : State) : (dropStream s).plen = s.plen := rfl
@[simp] theorem dropStream_result (s : State) : (dropStream s).result = s.result := rfl
@[simp] theorem dropStream_status (s : State) : (dropStream s).status = { s.status with ovalid := false } := rfl
@[simp] theorem dropStream_port (s : State) : (dropStream s).port = s.port := rfl
@[simp] theorem dropStream_grid (s : State) : (dropStream s).grid = s.grid := rfl
@[simp] theorem dropStream_resetPin (s : State) : (dropStream s).resetPin = s.resetPin := rfl
@[simp] theorem dropStream_responses (s : State) : (dropStream s).responses = s.responses := rfl

/-! ### `dropPalette` -/

@[simp] theorem dropPalette_table (s : State) : (dropPalette s).table = s.table := rfl
@[simp] theorem dropPalette_w (s : State) : (dropPalette s).w = s.w := rfl
@[simp] theorem dropPalette_h (s : State) : (dropPalette s).h = s.h := rfl
@[simp] theorem dropPalette_pos (s : State) : (dropPalette s).pos = s.pos := rfl
@[simp] theorem dropPalette_ocnt (s : State) : (dropPalette s).ocnt = s.ocnt := rfl
@[simp] theorem dropPalette_out (s : State) : (dropPalette s).out = s.out := rfl
@[simp] theorem dropPalette_pbuf (s : State) : (dropPalette s).pbuf = [] := rfl
@[simp] theorem dropPalette_plen (s : State) : (dropPalette s).plen = 0#10 := rfl
@[simp] theorem dropPalette_result (s : State) : (dropPalette s).result = s.result := rfl
@[simp] theorem dropPalette_status (s : State) : (dropPalette s).status = { s.status with pvalid := false } := rfl
@[simp] theorem dropPalette_port (s : State) : (dropPalette s).port = s.port := rfl
@[simp] theorem dropPalette_grid (s : State) : (dropPalette s).grid = s.grid := rfl
@[simp] theorem dropPalette_resetPin (s : State) : (dropPalette s).resetPin = s.resetPin := rfl
@[simp] theorem dropPalette_responses (s : State) : (dropPalette s).responses = s.responses := rfl

/-! ### `respond` -/

@[simp] theorem respond_table (code : ErrCode) (v : BitVec 16) (s : State) : (respond code v s).table = s.table := rfl
@[simp] theorem respond_w (code : ErrCode) (v : BitVec 16) (s : State) : (respond code v s).w = s.w := rfl
@[simp] theorem respond_h (code : ErrCode) (v : BitVec 16) (s : State) : (respond code v s).h = s.h := rfl
@[simp] theorem respond_pos (code : ErrCode) (v : BitVec 16) (s : State) : (respond code v s).pos = s.pos := rfl
@[simp] theorem respond_ocnt (code : ErrCode) (v : BitVec 16) (s : State) : (respond code v s).ocnt = s.ocnt := rfl
@[simp] theorem respond_out (code : ErrCode) (v : BitVec 16) (s : State) : (respond code v s).out = s.out := rfl
@[simp] theorem respond_pbuf (code : ErrCode) (v : BitVec 16) (s : State) : (respond code v s).pbuf = s.pbuf := rfl
@[simp] theorem respond_plen (code : ErrCode) (v : BitVec 16) (s : State) : (respond code v s).plen = s.plen := rfl
@[simp] theorem respond_result (code : ErrCode) (v : BitVec 16) (s : State) : (respond code v s).result = s.result := rfl
@[simp] theorem respond_status (code : ErrCode) (v : BitVec 16) (s : State) : (respond code v s).status = { s.status with err := code } := rfl
@[simp] theorem respond_port (code : ErrCode) (v : BitVec 16) (s : State) : (respond code v s).port = s.port := rfl
@[simp] theorem respond_grid (code : ErrCode) (v : BitVec 16) (s : State) : (respond code v s).grid = s.grid := rfl
@[simp] theorem respond_resetPin (code : ErrCode) (v : BitVec 16) (s : State) : (respond code v s).resetPin = s.resetPin := rfl
@[simp] theorem respond_responses (code : ErrCode) (v : BitVec 16) (s : State) : (respond code v s).responses = s.responses ++ [{ code := code, value := v }] := rfl

/-! ### `discardJob` -/

@[simp] theorem discardJob_table (s : State) : (discardJob s).table = construct modeCapacity := rfl
@[simp] theorem discardJob_w (s : State) : (discardJob s).w = 0#16 := rfl
@[simp] theorem discardJob_h (s : State) : (discardJob s).h = 0#16 := rfl
@[simp] theorem discardJob_pos (s : State) : (discardJob s).pos = Pos.zero := rfl
@[simp] theorem discardJob_ocnt (s : State) : (discardJob s).ocnt = 0#32 := rfl
@[simp] theorem discardJob_out (s : State) : (discardJob s).out = [] := rfl
@[simp] theorem discardJob_pbuf (s : State) : (discardJob s).pbuf = [] := rfl
@[simp] theorem discardJob_plen (s : State) : (discardJob s).plen = 0#10 := rfl
@[simp] theorem discardJob_result (s : State) : (discardJob s).result = s.result := rfl
@[simp] theorem discardJob_status (s : State) : (discardJob s).status = { err := s.status.err, ovalid := false, pvalid := false, busy := false } := rfl
@[simp] theorem discardJob_port (s : State) : (discardJob s).port = s.port := rfl
@[simp] theorem discardJob_grid (s : State) : (discardJob s).grid = s.grid := rfl
@[simp] theorem discardJob_resetPin (s : State) : (discardJob s).resetPin = s.resetPin := rfl
@[simp] theorem discardJob_responses (s : State) : (discardJob s).responses = s.responses := rfl

/-! ### `startJob` -/

@[simp] theorem startJob_table (w h : Dim) (s : State) : (startJob w h s).table = construct modeCapacity := rfl
@[simp] theorem startJob_w (w h : Dim) (s : State) : (startJob w h s).w = w := rfl
@[simp] theorem startJob_h (w h : Dim) (s : State) : (startJob w h s).h = h := rfl
@[simp] theorem startJob_pos (w h : Dim) (s : State) : (startJob w h s).pos = s.pos := rfl
@[simp] theorem startJob_ocnt (w h : Dim) (s : State) : (startJob w h s).ocnt = 0#32 := rfl
@[simp] theorem startJob_out (w h : Dim) (s : State) : (startJob w h s).out = [] := rfl
@[simp] theorem startJob_pbuf (w h : Dim) (s : State) : (startJob w h s).pbuf = [] := rfl
@[simp] theorem startJob_plen (w h : Dim) (s : State) : (startJob w h s).plen = 0#10 := rfl
@[simp] theorem startJob_result (w h : Dim) (s : State) : (startJob w h s).result = s.result := rfl
@[simp] theorem startJob_status (w h : Dim) (s : State) : (startJob w h s).status = { s.status with ovalid := false, pvalid := false } := rfl
@[simp] theorem startJob_port (w h : Dim) (s : State) : (startJob w h s).port = s.port := rfl
@[simp] theorem startJob_grid (w h : Dim) (s : State) : (startJob w h s).grid = s.grid := rfl
@[simp] theorem startJob_resetPin (w h : Dim) (s : State) : (startJob w h s).resetPin = s.resetPin := rfl
@[simp] theorem startJob_responses (w h : Dim) (s : State) : (startJob w h s).responses = s.responses := rfl

/-! ### `appendIndex` -/

@[simp] theorem appendIndex_table (slot : Slot) (s : State) : (appendIndex slot s).table = s.table := rfl
@[simp] theorem appendIndex_w (slot : Slot) (s : State) : (appendIndex slot s).w = s.w := rfl
@[simp] theorem appendIndex_h (slot : Slot) (s : State) : (appendIndex slot s).h = s.h := rfl
@[simp] theorem appendIndex_pos (slot : Slot) (s : State) : (appendIndex slot s).pos = s.pos := rfl
@[simp] theorem appendIndex_ocnt (slot : Slot) (s : State) : (appendIndex slot s).ocnt = s.ocnt + 1#32 := rfl
@[simp] theorem appendIndex_out (slot : Slot) (s : State) : (appendIndex slot s).out = memWrite s.out s.ocnt.toNat 1 slot.toNat := rfl
@[simp] theorem appendIndex_pbuf (slot : Slot) (s : State) : (appendIndex slot s).pbuf = s.pbuf := rfl
@[simp] theorem appendIndex_plen (slot : Slot) (s : State) : (appendIndex slot s).plen = s.plen := rfl
@[simp] theorem appendIndex_result (slot : Slot) (s : State) : (appendIndex slot s).result = s.result := rfl
@[simp] theorem appendIndex_status (slot : Slot) (s : State) : (appendIndex slot s).status = s.status := rfl
@[simp] theorem appendIndex_port (slot : Slot) (s : State) : (appendIndex slot s).port = s.port := rfl
@[simp] theorem appendIndex_grid (slot : Slot) (s : State) : (appendIndex slot s).grid = s.grid := rfl
@[simp] theorem appendIndex_resetPin (slot : Slot) (s : State) : (appendIndex slot s).resetPin = s.resetPin := rfl
@[simp] theorem appendIndex_responses (slot : Slot) (s : State) : (appendIndex slot s).responses = s.responses := rfl

/-! ### `completeStep` -/

@[simp] theorem completeStep_table (s : State) : (completeStep s).table = s.table := rfl
@[simp] theorem completeStep_w (s : State) : (completeStep s).w = s.w := rfl
@[simp] theorem completeStep_h (s : State) : (completeStep s).h = s.h := rfl
@[simp] theorem completeStep_pos (s : State) : (completeStep s).pos = Pos.zero := rfl
@[simp] theorem completeStep_ocnt (s : State) : (completeStep s).ocnt = s.ocnt := rfl
@[simp] theorem completeStep_out (s : State) : (completeStep s).out = s.out := rfl
@[simp] theorem completeStep_pbuf (s : State) : (completeStep s).pbuf = s.pbuf := rfl
@[simp] theorem completeStep_plen (s : State) : (completeStep s).plen = s.plen := rfl
@[simp] theorem completeStep_result (s : State) : (completeStep s).result = s.result := rfl
@[simp] theorem completeStep_status (s : State) : (completeStep s).status = { err := .ok, ovalid := true, pvalid := s.status.pvalid, busy := false } := rfl
@[simp] theorem completeStep_port (s : State) : (completeStep s).port = s.port := rfl
@[simp] theorem completeStep_grid (s : State) : (completeStep s).grid = s.grid := rfl
@[simp] theorem completeStep_resetPin (s : State) : (completeStep s).resetPin = s.resetPin := rfl
@[simp] theorem completeStep_responses (s : State) : (completeStep s).responses = s.responses ++ [{ code := .ok, value := 0#16 }] := rfl

/-! ### `applyReset` -/

@[simp] theorem applyReset_table (s : State) : (applyReset s).table = construct modeCapacity := rfl
@[simp] theorem applyReset_w (s : State) : (applyReset s).w = 0#16 := rfl
@[simp] theorem applyReset_h (s : State) : (applyReset s).h = 0#16 := rfl
@[simp] theorem applyReset_pos (s : State) : (applyReset s).pos = Pos.zero := rfl
@[simp] theorem applyReset_ocnt (s : State) : (applyReset s).ocnt = 0#32 := rfl
@[simp] theorem applyReset_out (s : State) : (applyReset s).out = [] := rfl
@[simp] theorem applyReset_pbuf (s : State) : (applyReset s).pbuf = [] := rfl
@[simp] theorem applyReset_plen (s : State) : (applyReset s).plen = 0#10 := rfl
@[simp] theorem applyReset_result (s : State) : (applyReset s).result = 0#16 := rfl
@[simp] theorem applyReset_status (s : State) : (applyReset s).status = { err := .ok, ovalid := false, pvalid := false, busy := false } := rfl
@[simp] theorem applyReset_port (s : State) : (applyReset s).port = s.port := rfl
@[simp] theorem applyReset_grid (s : State) : (applyReset s).grid = s.grid := rfl
@[simp] theorem applyReset_resetPin (s : State) : (applyReset s).resetPin = false := rfl
@[simp] theorem applyReset_responses (s : State) : (applyReset s).responses = s.responses := rfl

/-! ### The constructed table -/

@[simp] theorem construct_cap (cap : Capacity) : (construct cap).cap = cap := rfl
@[simp] theorem construct_nextFree (cap : Capacity) : (construct cap).nextFree = 0#9 := rfl
@[simp] theorem construct_fwd (cap : Capacity) : (construct cap).fwd = [] := rfl
@[simp] theorem construct_rev (cap : Capacity) : (construct cap).rev = [] := rfl
@[simp] theorem modeCapacity_toNat : modeCapacity.toNat = 256 := rfl

/-! ### Raising a failure -/

/-- DimensionError, CapacityExceeded and IllegalCommand record their code and nothing else. -/
theorem raise_dimensionError (s : State) : raise .dimensionError s = respond .dimensionError 0#16 s := rfl
theorem raise_capacityExceeded (s : State) : raise .capacityExceeded s = respond .capacityExceeded 0#16 s := rfl
theorem raise_illegalCommand (s : State) : raise .illegalCommand s = respond .illegalCommand 0#16 s := rfl
theorem raise_tooManyColors (s : State) : raise .tooManyColors s = respond .tooManyColors 0#16 (discardJob s) := rfl

end Sys2Proof.Machine
end

