-- ==== Sys2Proof/Laws/Store.lean ====
section
/-! SUPPORT. The laws of the spaces: a read after a write, the canonical form, and the little-endian accesses. -/

namespace Sys2Proof.Machine

variable {α : Type}

@[simp] theorem storeRead_nil (k : Nat) : storeRead ([] : Store α) k = none := rfl

/-- A read at the key just written gives the value written. -/
@[simp] theorem storeRead_write_same (m : Store α) (k : Nat) (v : α) : storeRead (storeWrite m k v) k = some v := by
  induction m with
  | nil => simp [storeWrite, storeRead]
  | cons e m ih =>
    obtain ⟨k', v'⟩ := e
    simp only [storeWrite]
    split
    · simp [storeRead]
    · split
      · simp [storeRead]
      · simp [storeRead, *]

/-- A write leaves every other key alone. -/
theorem storeRead_write_other (m : Store α) {k j : Nat} (v : α) (h : j ≠ k) :
    storeRead (storeWrite m k v) j = storeRead m j := by
  induction m with
  | nil => simp [storeWrite, storeRead, h]
  | cons e m ih =>
    obtain ⟨k', v'⟩ := e
    simp only [storeWrite]
    split
    · simp [storeRead, h]
    · split
      · subst_vars
        simp [storeRead, h]
      · simp [storeRead, ih]

/-- Both cases of a read after a write. -/
theorem storeRead_write (m : Store α) (k j : Nat) (v : α) :
    storeRead (storeWrite m k v) j = if j = k then some v else storeRead m j := by
  split
  · subst_vars; simp
  · exact storeRead_write_other m v ‹_›

theorem storeWfFrom_mono {lo lo' : Nat} (m : Store α) (h : lo' ≤ lo) (hm : storeWfFrom lo m = true) :
    storeWfFrom lo' m = true := by
  cases m with
  | nil => rfl
  | cons e m =>
    simp only [storeWfFrom, Bool.and_eq_true, decide_eq_true_eq] at hm ⊢
    exact ⟨by omega, hm.2⟩

theorem storeWfFrom_write (m : Store α) : ∀ (lo k : Nat) (v : α), lo ≤ k → storeWfFrom lo m = true →
    storeWfFrom lo (storeWrite m k v) = true := by
  induction m with
  | nil => intro lo k v hk _; simp [storeWrite, storeWfFrom, hk]
  | cons e m ih =>
    obtain ⟨k', v'⟩ := e
    intro lo k v hk hm
    simp only [storeWfFrom, Bool.and_eq_true, decide_eq_true_eq] at hm
    simp only [storeWrite]
    split
    · simp only [storeWfFrom, Bool.and_eq_true, decide_eq_true_eq]
      exact ⟨hk, by omega, hm.2⟩
    · split
      · subst_vars
        simp only [storeWfFrom, Bool.and_eq_true, decide_eq_true_eq]
        exact ⟨hk, hm.2⟩
      · simp only [storeWfFrom, Bool.and_eq_true, decide_eq_true_eq]
        exact ⟨hm.1, ih _ _ _ (by omega) hm.2⟩

/-- A write keeps the canonical form. -/
theorem storeWf_write (m : Store α) (k : Nat) (v : α) (hm : storeWf m = true) : storeWf (storeWrite m k v) = true :=
  storeWfFrom_write m 0 k v (Nat.zero_le _) hm

@[simp] theorem storeWf_nil : storeWf ([] : Store α) = true := rfl

theorem storeWfFrom_read_none {lo k : Nat} (m : Store α) (hm : storeWfFrom lo m = true) (hk : k < lo) :
    storeRead m k = none := by
  induction m generalizing lo with
  | nil => rfl
  | cons e m ih =>
    obtain ⟨k', v'⟩ := e
    simp only [storeWfFrom, Bool.and_eq_true, decide_eq_true_eq] at hm
    simp only [storeRead]
    rw [if_neg (by omega)]
    exact ih hm.2 (by omega)

theorem storeWfFrom_ext {lo : Nat} (m m' : Store α) (hm : storeWfFrom lo m = true) (hm' : storeWfFrom lo m' = true)
    (h : ∀ k, storeRead m k = storeRead m' k) : m = m' := by
  induction m generalizing lo m' with
  | nil =>
    cases m' with
    | nil => rfl
    | cons e m' => have := h e.1; simp [storeRead] at this
  | cons e m ih =>
    obtain ⟨k, v⟩ := e
    cases m' with
    | nil => have := h k; simp [storeRead] at this
    | cons e' m' =>
      obtain ⟨k', v'⟩ := e'
      simp only [storeWfFrom, Bool.and_eq_true, decide_eq_true_eq] at hm hm'
      have hkk : k = k' := by
        rcases Nat.lt_trichotomy k k' with hlt | heq | hgt
        · have := h k
          simp only [storeRead, if_true, if_neg (Nat.ne_of_lt hlt)] at this
          rw [storeWfFrom_read_none m' hm'.2 (by omega)] at this
          cases this
        · exact heq
        · have := h k'
          simp only [storeRead, if_true, if_neg (Nat.ne_of_lt hgt)] at this
          rw [storeWfFrom_read_none m hm.2 (by omega)] at this
          cases this
      subst hkk
      have hv := h k
      simp only [storeRead, if_true, Option.some.injEq] at hv
      subst hv
      congr 1
      refine ih m' hm.2 hm'.2 fun j => ?_
      have hj := h j
      simp only [storeRead] at hj
      split at hj
      · subst_vars
        rw [storeWfFrom_read_none m hm.2 (by omega), storeWfFrom_read_none m' hm'.2 (by omega)]
      · exact hj

/-- Equal spaces in canonical form are equal data. -/
theorem store_ext (m m' : Store α) (hm : storeWf m = true) (hm' : storeWf m' = true)
    (h : ∀ k, storeRead m k = storeRead m' k) : m = m' :=
  storeWfFrom_ext m m' hm hm' h

/-- A memory write keeps the canonical form. -/
theorem memWrite_wf (m : Memory) (addr n v : Nat) (hm : Memory.wf m = true) : Memory.wf (memWrite m addr n v) = true := by
  induction n generalizing m addr v with
  | zero => exact hm
  | succ n ih => exact ih _ _ _ (storeWf_write m addr _ hm)

/-- What one byte reads as after a memory write: byte `j - addr` of the value inside, the old byte outside. -/
theorem storeRead_memWrite (m : Memory) (addr n v j : Nat) :
    storeRead (memWrite m addr n v) j =
      if addr ≤ j ∧ j < addr + n then some (BitVec.ofNat 8 (v / 256 ^ (j - addr))) else storeRead m j := by
  induction n generalizing m addr v with
  | zero => simp only [memWrite]; rw [if_neg (by omega)]
  | succ n ih =>
    simp only [memWrite]
    rw [ih]
    by_cases h : addr + 1 ≤ j ∧ j < addr + 1 + n
    · rw [if_pos h, if_pos (by omega)]
      obtain ⟨d, rfl⟩ : ∃ d, j = addr + 1 + d := ⟨j - (addr + 1), by omega⟩
      have h1 : addr + 1 + d - (addr + 1) = d := by omega
      have h2 : addr + 1 + d - addr = d + 1 := by omega
      rw [h1, h2, Nat.pow_succ, Nat.div_div_eq_div_mul, Nat.mul_comm]
    · rw [if_neg h, storeRead_write]
      by_cases hj : j = addr
      · subst hj
        rw [if_pos rfl, if_pos (by omega)]
        simp
      · rw [if_neg hj, if_neg (by omega)]

/-- The one-byte write of the pixel stream. -/
theorem memWrite_one (m : Memory) (addr : Nat) (b : Byte) : memWrite m addr 1 b.toNat = storeWrite m addr b := by
  simp [memWrite]

end Sys2Proof.Machine
end

