-- ==== Sys2Proof/Laws/Quantizer.lean ====
section
/-! SUPPORT. Concatenation and fields as arithmetic, and what `quantize` computes. -/

namespace Sys2Proof.Machine

/-- Concatenation as arithmetic. -/
theorem append_toNat {n m : Nat} (a : BitVec n) (b : BitVec m) : (a ++ b).toNat = a.toNat * 2 ^ m + b.toNat := by
  rw [BitVec.toNat_append, ← Nat.shiftLeft_add_eq_or_of_lt b.isLt, Nat.shiftLeft_eq]

/-- A field `v[lo+len-1:lo]` as arithmetic. -/
theorem extract_toNat {n : Nat} (v : BitVec n) (lo len : Nat) :
    (v.extractLsb' lo len).toNat = v.toNat / 2 ^ lo % 2 ^ len := by
  rw [BitVec.extractLsb'_toNat, Nat.shiftRight_eq_div_pow]

/-- The mask of R111 changes nothing: an 8-bit value shifted right by 3 is below 32 (R112). -/
theorem truncateChannel_eq (v : Byte) : truncateChannel v = (v.extractLsb' 3 5).setWidth 16 := by
  revert v; decide +kernel

/-- `quantize` packs the three 5-bit fields under a zero top bit. -/
theorem quantize_eq_append (c : TrueColor) :
    quantize c = 0#1 ++ c.b.extractLsb' 3 5 ++ c.g.extractLsb' 3 5 ++ c.r.extractLsb' 3 5 := by
  simp only [quantize, truncateChannel_eq]
  refine BitVec.eq_of_getLsbD_eq fun i hi => ?_
  simp only [BitVec.getLsbD_or, BitVec.getLsbD_shiftLeft, BitVec.getLsbD_setWidth, BitVec.getLsbD_append]
  interval_cases i <;> simp

/-- Bit 15 of a quantized colour is 0, so `FWD` is indexed by the whole value. -/
theorem colorIndex_quantize (c : TrueColor) : colorIndex (quantize c) = (quantize c).toNat := by
  have h : (quantize c).toNat < 2 ^ 15 := by
    rw [quantize_eq_append, BitVec.append_assoc, BitVec.append_assoc]
    simp only [BitVec.toNat_cast, append_toNat]
    have hb := (c.b.extractLsb' 3 5).isLt
    have hg := (c.g.extractLsb' 3 5).isLt
    have hr := (c.r.extractLsb' 3 5).isLt
    simp only [BitVec.toNat_ofNat]
    omega
  rw [colorIndex, extract_toNat, Nat.pow_zero, Nat.div_one, Nat.mod_eq_of_lt h]

theorem colorIndex_lt (hc : HardwareColor) : colorIndex hc < 32768 := (hc.extractLsb' 0 15).isLt

theorem quantize_lt (c : TrueColor) : (quantize c).toNat < 32768 := colorIndex_quantize c ▸ colorIndex_lt _

end Sys2Proof.Machine
end

