-- ==== Sys2Proof/Laws/Palette.lean ====
section
/-! SUPPORT. Everything `LookupOrInsert` can do, said once, and what an insertion changes. -/

namespace Sys2Proof.Machine

/-- `LookupOrInsert` answers in one of three ways (R124). -/
theorem lookupOrInsert_cases (t : PaletteTable) (c : TrueColor) :
    (∃ slot, storeRead t.fwd (quantize c).toNat = some slot ∧ lookupOrInsert t c = .hit slot) ∨
    (storeRead t.fwd (quantize c).toNat = none ∧ t.nextFree = t.cap ∧ lookupOrInsert t c = .capacityExceeded) ∨
    (storeRead t.fwd (quantize c).toNat = none ∧ t.nextFree ≠ t.cap ∧
      lookupOrInsert t c = .inserted (t.nextFree.setWidth 8) (insertColor t (quantize c))) := by
  simp only [lookupOrInsert, colorIndex_quantize]
  cases h : storeRead t.fwd (quantize c).toNat with
  | some slot => exact .inl ⟨slot, rfl, rfl⟩
  | none =>
    by_cases hf : t.nextFree = t.cap
    · exact .inr (.inl ⟨rfl, hf, if_pos hf⟩)
    · exact .inr (.inr ⟨rfl, hf, if_neg hf⟩)

@[simp] theorem insertColor_cap (t : PaletteTable) (hc : HardwareColor) : (insertColor t hc).cap = t.cap := rfl

@[simp] theorem insertColor_nextFree (t : PaletteTable) (hc : HardwareColor) :
    (insertColor t hc).nextFree = t.nextFree + 1#9 := rfl

/-- An insertion gives the colour the slot `NEXT_FREE` and leaves every other entry of `FWD`. -/
theorem insertColor_fwd (t : PaletteTable) (c : TrueColor) (k : Nat) :
    storeRead (insertColor t (quantize c)).fwd k =
      if k = (quantize c).toNat then some (t.nextFree.setWidth 8) else storeRead t.fwd k := by
  rw [← colorIndex_quantize]
  exact storeRead_write t.fwd (colorIndex (quantize c)) k _

/-- An insertion writes `REV[NEXT_FREE]` and leaves every other entry of `REV`. -/
theorem insertColor_rev (t : PaletteTable) (hc : HardwareColor) (i : Nat) :
    storeRead (insertColor t hc).rev i = if i = t.nextFree.toNat then some hc else storeRead t.rev i :=
  storeRead_write t.rev t.nextFree.toNat i hc

theorem insertColor_wf (t : PaletteTable) (hc : HardwareColor) (hf : storeWf t.fwd = true) (hr : storeWf t.rev = true) :
    storeWf (insertColor t hc).fwd = true ∧ storeWf (insertColor t hc).rev = true :=
  ⟨storeWf_write _ _ _ hf, storeWf_write _ _ _ hr⟩

/-- While the table is not full, `NEXT_FREE + 1` does not wrap (R134). -/
theorem nextFree_succ (t : PaletteTable) (h : TableInv t) (hne : t.nextFree ≠ t.cap) :
    (t.nextFree + 1#9).toNat = t.nextFree.toNat + 1 ∧ t.nextFree.toNat < t.cap.toNat := by
  have h1 := h.nextFree_le_cap
  have h2 := h.cap_le
  have h3 : t.nextFree.toNat ≠ t.cap.toNat := fun e => hne (BitVec.eq_of_toNat_eq e)
  constructor
  · rw [BitVec.toNat_add]
    simp only [BitVec.toNat_ofNat]
    omega
  · omega

/-- While the table is not full, the slot it gives is `NEXT_FREE` without truncation (R82). -/
theorem nextFree_slot (t : PaletteTable) (h : TableInv t) (hne : t.nextFree ≠ t.cap) :
    (t.nextFree.setWidth 8).toNat = t.nextFree.toNat := by
  have h1 := (nextFree_succ t h hne).2
  have h2 := h.cap_le
  rw [BitVec.toNat_setWidth, Nat.mod_eq_of_lt (by omega)]

/-- Writing 16-bit values one after another keeps the canonical form. -/
theorem foldl_memWrite_wf (addr value : Nat → Nat) (is : List Nat) (m : Memory) (hm : Memory.wf m = true) :
    Memory.wf (is.foldl (fun m i => memWrite m (addr i) 2 (value i)) m) = true := by
  induction is generalizing m with
  | nil => exact hm
  | cons i is ih => exact ih _ (memWrite_wf m _ 2 _ hm)

/-- A serialization is in canonical form. -/
theorem serialize_wf (t : PaletteTable) : Memory.wf (serialize t) = true :=
  foldl_memWrite_wf (fun i => 2 * i) (fun i => (slotValue t i).toNat) _ [] rfl

/-- The spaces of the reset state are in canonical form: they list nothing. -/
theorem reset_spaces_wf : SpacesWf State.reset := ⟨rfl, rfl, rfl, rfl⟩

end Sys2Proof.Machine
end

