-- ==== Sys2Proof/Laws/PerInstr.lean ====
section
/-! SUPPORT. Families of one lemma per constructor of `Instr` (`LAWS.json`). `TableRow`: the word of an instruction selects
that instruction's row of the match and mask table of `30_encoding.md` R90, and no other row of it. -/

namespace Sys2Proof.Laws

open Sys2Proof

/-- The word the encoder gives `i` selects the row of `i`, one of the five of R90, and no other. -/
def TableRow.Statement (i : Instr) : Prop :=
  i.row ∈ opcodeRows ∧ i.row.selectedBy (encode i) = true ∧
    ∀ row ∈ opcodeRows, row.selectedBy (encode i) = true → row = i.row

/-- Every mask of R90 covers `op`. -/
theorem opField_mask : ∀ row ∈ opcodeRows, opField row.mask = BitVec.allOnes 8 := by
  decide

/-- A selected row has the word's opcode in its pattern. -/
theorem opField_of_selectedBy {row : OpcodeRow} {cw : CommandWord} (hrow : row ∈ opcodeRows)
    (h : row.selectedBy cw = true) : opField row.pattern = opField cw := by
  have hm : opField row.mask = BitVec.allOnes 8 := opField_mask row hrow
  rw [← beq_iff_eq.1 h]
  simp only [opField, BitVec.extractLsb'_and] at hm ⊢
  rw [hm, BitVec.and_allOnes]

/-- Two rows of R90 with one opcode are one row. -/
theorem row_eq_of_opField : ∀ row ∈ opcodeRows, ∀ row' ∈ opcodeRows,
    opField row.pattern = opField row'.pattern → row = row' := by
  decide

/-- Being selected is enough: no other row can be. -/
theorem tableRow_of_selected {i : Instr} (hrow : i.row ∈ opcodeRows) (h : i.row.selectedBy (encode i) = true) :
    TableRow.Statement i :=
  ⟨hrow, h, fun row hr hs => row_eq_of_opField row hr _ hrow
    ((opField_of_selectedBy hr hs).trans (opField_of_selectedBy hrow h).symm)⟩

/-- A word of an opcode and an argument under a mask that covers the opcode. -/
theorem append_and_mask (op : BitVec 8) (arg mask : BitVec 32) (h : arg &&& mask = 0#32) :
    (op ++ arg : BitVec 40) &&& (0xFF#8 ++ mask) = op ++ 0#32 := by
  rw [BitVec.and_append, h]
  congr 1
  exact BitVec.and_allOnes

theorem TableRow.quant (c : TrueColor) : TableRow.Statement (.quant c) :=
  tableRow_of_selected (by simp [Instr.row, opcodeRows])
    (beq_iff_eq.2 (append_and_mask 0x01#8 (wordOfTrueColor c) 0#32 BitVec.and_zero))

theorem TableRow.pnew (cap : Capacity) : TableRow.Statement (.pnew cap) := by
  refine tableRow_of_selected (by simp [Instr.row, opcodeRows]) (beq_iff_eq.2 ?_)
  have h : (0#23 ++ cap : BitVec 32) &&& (BitVec.allOnes 23 ++ 0#9) = 0#32 := by
    rw [BitVec.and_append, BitVec.and_zero]
    rfl
  refine Eq.trans ?_ (append_and_mask 0x02#8 (0#23 ++ cap) (BitVec.allOnes 23 ++ 0#9) h)
  exact congrArg (· &&& 0xFFFFFFFE00#40) BitVec.append_assoc

theorem TableRow.plki (c : TrueColor) : TableRow.Statement (.plki c) :=
  tableRow_of_selected (by simp [Instr.row, opcodeRows])
    (beq_iff_eq.2 (append_and_mask 0x03#8 (wordOfTrueColor c) 0#32 BitVec.and_zero))

theorem TableRow.pser : TableRow.Statement .pser :=
  tableRow_of_selected (by simp [Instr.row, opcodeRows]) (by decide)

theorem TableRow.encode (w h : Dim) : TableRow.Statement (.encode w h) := by
  refine tableRow_of_selected (by simp [Instr.row, opcodeRows]) (beq_iff_eq.2 ?_)
  refine Eq.trans ?_ (append_and_mask 0x05#8 (h ++ w) 0#32 BitVec.and_zero)
  exact congrArg (· &&& 0xFF00000000#40) BitVec.append_assoc

end Sys2Proof.Laws
end

