-- ==== Sys2Proof/Laws/TileEncoder.lean ====
section
/-! SUPPORT. Everything visiting a pixel, walking a list of pixels and the sequencer's step can do, said once. -/

namespace Sys2Proof.Machine

/-- Visiting a pixel does one of four things (R154). -/
theorem visitPixel_cases (x y : Nat) (s : State) :
    (gridRead s.grid x y = none ∧ visitPixel x y s = .noPixel) ∨
    ∃ c, gridRead s.grid x y = some c ∧
      ((∃ slot, lookupOrInsert s.table c = .hit slot ∧ visitPixel x y s = .appended (appendIndex slot s)) ∨
       (∃ slot t, lookupOrInsert s.table c = .inserted slot t ∧
          visitPixel x y s = .appended (appendIndex slot { s with table := t })) ∨
       (lookupOrInsert s.table c = .capacityExceeded ∧ visitPixel x y s = .full)) := by
  simp only [visitPixel]
  cases hg : gridRead s.grid x y with
  | none => exact .inl ⟨rfl, rfl⟩
  | some c =>
    refine .inr ⟨c, rfl, ?_⟩
    cases hl : lookupOrInsert s.table c with
    | hit slot => exact .inl ⟨slot, rfl, by simp [hl]⟩
    | inserted slot t => exact .inr (.inl ⟨slot, t, rfl, by simp [hl]⟩)
    | capacityExceeded => exact .inr (.inr ⟨rfl, by simp [hl]⟩)

/-- What a visited pixel leaves alone: only the table, `OUT` and `OCNT` change. -/
theorem visitPixel_frame {x y : Nat} {s s' : State} (h : visitPixel x y s = .appended s') :
    s' = { s with table := s'.table, out := s'.out, ocnt := s.ocnt + 1#32 } := by
  rcases visitPixel_cases x y s with ⟨_, hv⟩ | ⟨c, _, ⟨slot, _, hv⟩ | ⟨slot, t, _, hv⟩ | ⟨_, hv⟩⟩ <;> rw [hv] at h <;>
    cases h <;> rfl

/-- A walk over two lists in turn. -/
theorem walkPixels_append (ps qs : List (Nat × Nat)) (s : State) :
    walkPixels (ps ++ qs) s =
      match walkPixels ps s with
      | .finished s' => walkPixels qs s'
      | e => e := by
  induction ps generalizing s with
  | nil => rfl
  | cons p ps ih =>
    obtain ⟨x, y⟩ := p
    simp only [List.cons_append, walkPixels]
    cases visitPixel x y s <;> simp [ih]

/-- A property that every visited pixel keeps holds of the state a walk ends in. -/
theorem walkPixels_induction {P : State → Prop} (hP : ∀ x y s s', P s → visitPixel x y s = .appended s' → P s')
    (ps : List (Nat × Nat)) (s : State) (hs : P s) :
    (∀ s', walkPixels ps s = .finished s' → P s') ∧ (∀ s', walkPixels ps s = .full s' → P s') := by
  induction ps generalizing s with
  | nil =>
    refine ⟨fun s' h => ?_, fun s' h => by simp [walkPixels] at h⟩
    simp only [walkPixels, WalkEnd.finished.injEq] at h
    exact h ▸ hs
  | cons p ps ih =>
    obtain ⟨x, y⟩ := p
    simp only [walkPixels]
    cases hv : visitPixel x y s with
    | appended s1 => exact ih s1 (hP x y s s1 hs hv)
    | full => exact ⟨fun s' h => by simp at h, fun s' h => by simp at h; exact h ▸ hs⟩
    | noPixel => exact ⟨fun s' h => by simp at h, fun s' h => by simp at h⟩

/-- What ENCODE does: DimensionError, or the end of the walk from the start state. -/
theorem execEncode_cases (w h : Dim) (s : State) :
    (dimensionsOk w h = false ∧ execEncode w h s = .next (raise .dimensionError s)) ∨
    (dimensionsOk w h = true ∧
      ((∃ s', walkPixels (walkOrder w h) (startJob w h s) = .finished s' ∧
          execEncode w h s = .next (respond .ok 0#16 (setOvalid true s'))) ∨
       (∃ s', walkPixels (walkOrder w h) (startJob w h s) = .full s' ∧
          execEncode w h s = .next (raise .tooManyColors s')) ∨
       (∃ x y, walkPixels (walkOrder w h) (startJob w h s) = .noPixel x y ∧
          execEncode w h s = .refused (.gridUndefined x y)))) := by
  cases hd : dimensionsOk w h with
  | false => exact .inl ⟨rfl, by simp [execEncode, hd]⟩
  | true =>
    refine .inr ⟨rfl, ?_⟩
    simp only [execEncode, hd, if_true]
    cases hw : walkPixels (walkOrder w h) (startJob w h s) with
    | finished s' => exact .inl ⟨s', rfl, rfl⟩
    | full s' => exact .inr (.inl ⟨s', rfl, rfl⟩)
    | noPixel x y => exact .inr (.inr ⟨x, y, rfl, rfl⟩)

/-- The dimension check as arithmetic (R151). -/
theorem dimensionsOk_iff (w h : Dim) : dimensionsOk w h = true ↔ w.toNat % 8 = 0 ∧ h.toNat % 8 = 0 := by
  simp [dimensionsOk, tileAligned]

/-- What the sequencer's step does (R158). -/
theorem sequencerStep_cases (s : State) :
    (s.ocnt.toNat < pixelCount s ∧
      ((∃ s', visitPixel (pixelX s.pos) (pixelY s.pos) s = .appended s' ∧
          sequencerStep s = .next { s' with pos := advance s.w s.h s.pos }) ∨
       (visitPixel (pixelX s.pos) (pixelY s.pos) s = .full ∧ sequencerStep s = .next (raise .tooManyColors s)) ∨
       (visitPixel (pixelX s.pos) (pixelY s.pos) s = .noPixel ∧
          sequencerStep s = .refused (.gridUndefined (pixelX s.pos) (pixelY s.pos))))) ∨
    (s.ocnt.toNat = pixelCount s ∧ sequencerStep s = .next (completeStep s)) ∨
    (pixelCount s < s.ocnt.toNat ∧ sequencerStep s = .fault .sequencerStuck) := by
  rcases Nat.lt_trichotomy s.ocnt.toNat (pixelCount s) with hlt | heq | hgt
  · refine .inl ⟨hlt, ?_⟩
    simp only [sequencerStep, if_pos hlt, pixStep]
    cases hv : visitPixel (pixelX s.pos) (pixelY s.pos) s with
    | appended s' => exact .inl ⟨s', rfl, rfl⟩
    | full => exact .inr (.inl ⟨rfl, rfl⟩)
    | noPixel => exact .inr (.inr ⟨rfl, rfl⟩)
  · exact .inr (.inl ⟨heq, by simp [sequencerStep, heq]⟩)
  · refine .inr (.inr ⟨hgt, ?_⟩)
    simp only [sequencerStep]
    rw [if_neg (by omega), if_neg (by omega)]

end Sys2Proof.Machine
end

