-- ==== Sys2Proof/Laws/Step.lean ====
section
/-! SUPPORT. Everything a step can do, said once, for the command level and the step level. -/

namespace Sys2Proof.Machine

/-- A step applies the reset input, takes the sequencer's step, holds, or accepts the next command (R158, R241). -/
theorem blockStep_cases (run : Instr → State → Host.Outcome State Fault Refusal)
    (internal : State → Host.Outcome State Fault Refusal) (s : State) :
    (s.resetPin = true ∧ blockStep run internal s = .next (applyReset s)) ∨
    (s.resetPin = false ∧ s.status.busy = true ∧ blockStep run internal s = internal s) ∨
    (s.resetPin = false ∧ s.status.busy = false ∧ s.port = [] ∧ blockStep run internal s = .next s) ∨
    (∃ r rest, Accepts s r rest ∧
      ((∃ i, decode r.word = .command i ∧ blockStep run internal s = run i (taken s r rest)) ∨
       (∃ why, decode r.word = .illegal why ∧
          blockStep run internal s = .next (raise .illegalCommand (taken s r rest))))) := by
  cases hp : s.resetPin with
  | true => exact .inl ⟨rfl, by simp [blockStep, hp]⟩
  | false =>
    cases hb : s.status.busy with
    | true => exact .inr (.inl ⟨rfl, rfl, by simp [blockStep, hp, hb]⟩)
    | false =>
      cases hq : s.port with
      | nil => exact .inr (.inr (.inl ⟨rfl, rfl, rfl, by simp [blockStep, hp, hb, hq]⟩))
      | cons r rest =>
        refine .inr (.inr (.inr ⟨r, rest, ⟨hp, hb, hq⟩, ?_⟩))
        cases hd : decode r.word with
        | command i => exact .inl ⟨i, rfl, by simp [blockStep, hp, hb, hq, acceptCommand, hd, taken]⟩
        | illegal why => exact .inr ⟨why, rfl, by simp [blockStep, hp, hb, hq, acceptCommand, hd, taken]⟩

/-- The step level differs from the command level in ENCODE alone. -/
theorem fineExec_eq (i : Instr) (s : State) (h : ∀ w h, i ≠ .encode w h) : fineExec i s = exec i s := by
  cases i with
  | encode w h' => exact absurd rfl (h w h')
  | _ => rfl

end Sys2Proof.Machine
end

