-- ==== Sys2Proof/Tests/Slice0.lean ====
section
/-! SUPPORT. The model's own tests (expected results: `95_test_vectors.md`, by the number cited), and for every obligation with
hypotheses a witness that meets them all (`witness_<obligation>`). -/

namespace Sys2Proof.Machine

open Sys2Proof

/-! ### Helpers -/

/-- The state a step answers. -/
def nextState : Host.Outcome State Fault Refusal → Option State
  | .next t => some t
  | .fault _ => none
  | .refused _ => none

/-- A field of the state a step answers. -/
def nextField {α : Type} (f : State → α) (o : Host.Outcome State Fault Refusal) : Option α := (nextState o).map f

/-- An idle state with one command at its port. -/
def issued (word : CommandWord) (g : Grid) (s : State) : State := { s with port := [⟨word, g⟩] }

/-- The grid of width `w` and height `h` whose pixel `(x, y)` is `f x y`. -/
def imageGrid (w h : Nat) (f : Nat → Nat → TrueColor) : Grid :=
  (List.range h).map fun y => (List.range w).map fun x => f x y

theorem gridRead_imageGrid (w h : Nat) (f : Nat → Nat → TrueColor) (x y : Nat) (hx : x < w) (hy : y < h) :
    gridRead (imageGrid w h f) x y = some (f x y) := by
  simp [gridRead, imageGrid, hx, hy]

/-- A colour whose HardwareColor is `n`, for `n < 1024`. -/
def rampColor (n : Nat) : TrueColor := ⟨BitVec.ofNat 8 (n % 32 * 8), BitVec.ofNat 8 (n / 32 * 8), 0#8, 255#8⟩

/-- The space that lists `f 0, ..., f (n - 1)`. -/
def rampStore {α : Type} (f : Nat → α) : Nat → Nat → Store α
  | _, 0 => []
  | k, n + 1 => (k, f k) :: rampStore f (k + 1) n

theorem storeRead_rampStore {α : Type} (f : Nat → α) (n : Nat) : ∀ k j,
    storeRead (rampStore f k n) j = if k ≤ j ∧ j < k + n then some (f j) else none := by
  induction n with
  | zero =>
    intro k j
    rw [if_neg (by omega)]
    rfl
  | succ n ih =>
    intro k j
    simp only [rampStore, storeRead]
    by_cases h : j = k
    · subst h
      rw [if_pos rfl, if_pos (by omega)]
    · rw [if_neg h, ih]
      by_cases h' : k ≤ j ∧ j < k + (n + 1)
      · rw [if_pos h', if_pos (by omega)]
      · rw [if_neg h', if_neg (by omega)]

theorem storeWf_rampStore {α : Type} (f : Nat → α) (n : Nat) : ∀ k lo, lo ≤ k → storeWfFrom lo (rampStore f k n) = true := by
  induction n with
  | zero => intro k lo _; rfl
  | succ n ih => intro k lo h; simp [rampStore, storeWfFrom, h, ih]

/-- The table of capacity `cap` whose slot `i` holds the HardwareColor `i`, for `i < n`. -/
def rampTable (cap n : Nat) : PaletteTable where
  cap := BitVec.ofNat 9 cap
  nextFree := BitVec.ofNat 9 n
  fwd := rampStore (BitVec.ofNat 8) 0 n
  rev := rampStore (BitVec.ofNat 16) 0 n

theorem rampTable_inv (cap n : Nat) (hn : n ≤ cap) (hc : cap ≤ 256) : TableInv (rampTable cap n) := by
  have e9 : ∀ k, k ≤ 256 → (BitVec.ofNat 9 k).toNat = k := fun k h => by rw [BitVec.toNat_ofNat]; omega
  refine ⟨?_, ?_, storeWf_rampStore _ _ _ _ (by omega), storeWf_rampStore _ _ _ _ (by omega), ?_, ?_, ?_, ?_⟩
  · simp only [rampTable, e9 n (by omega), e9 cap hc]; exact hn
  · simp only [rampTable, e9 cap hc]; exact hc
  · intro k slot h
    simp only [rampTable, storeRead_rampStore] at h
    split at h
    · omega
    · cases h
  · intro i
    simp only [rampTable, storeRead_rampStore, e9 n (by omega)]
    split <;> simp <;> omega
  · intro i hc' h
    simp only [rampTable, storeRead_rampStore] at h
    split at h
    · cases h; rw [BitVec.toNat_ofNat]; omega
    · cases h
  · intro hc' hlt slot
    have hs := slot.isLt
    simp only [rampTable, storeRead_rampStore, e9 n (by omega)]
    constructor
    · intro h
      split at h
      · injection h with h
        have h2 : slot.toNat = hc'.toNat := by rw [← h, BitVec.toNat_ofNat]; omega
        refine ⟨by omega, ?_⟩
        rw [if_pos (by omega), h2]
        congr 1
        exact BitVec.eq_of_toNat_eq (by rw [BitVec.toNat_ofNat]; omega)
      · cases h
    · rintro ⟨h1, h⟩
      rw [if_pos (by omega)] at h
      injection h with h
      have h2 : hc'.toNat = slot.toNat := by rw [← h, BitVec.toNat_ofNat]; omega
      rw [if_pos (by omega), h2]
      congr 1
      exact BitVec.eq_of_toNat_eq (by rw [BitVec.toNat_ofNat]; omega)

/-- An idle state whose table is `rampTable cap n`, with nothing valid. -/
def idleRamp (cap n : Nat) : State := { State.reset with table := rampTable cap n }

theorem idleRamp_inv (cap n : Nat) (hn : n ≤ cap) (hc : cap ≤ 256) : BlockInv (idleRamp cap n) where
  table := rampTable_inv cap n hn hc
  idle := fun _ =>
    ⟨⟨rfl, ⟨rfl, fun k => by simp [idleRamp, State.reset], fun k b => by simp [idleRamp, State.reset], rfl, rfl⟩,
        fun h => by simp [idleRamp, State.reset] at h, fun _ => ⟨rfl, rfl, rfl⟩⟩,
      ⟨rfl, fun j => by simp [idleRamp, State.reset], fun h => by simp [idleRamp, State.reset] at h, fun _ => rfl⟩⟩
  run := fun h => by simp [idleRamp, State.reset] at h

/-- Phase RUN of an ENCODE of an `8 × 40` grid `g`, `n ≤ 256` pixels in: slot `i` was given to pixel `i`. -/
def running (n : Nat) (g : Grid) : State :=
  { State.reset with
    table := rampTable 256 n, w := 8#16, h := 40#16, ocnt := BitVec.ofNat 32 n, out := rampStore (BitVec.ofNat 8) 0 n
    pos := ⟨BitVec.ofNat 13 (n / 64), 0#13, BitVec.ofNat 3 (n % 64 / 8), BitVec.ofNat 3 (n % 8)⟩
    status := { State.reset.status with busy := true }, grid := g }

theorem running_inv (n : Nat) (g : Grid) (hn : n ≤ 256) : BlockInv (running n g) where
  table := rampTable_inv 256 n hn (Nat.le_refl _)
  idle := fun h => by simp [running] at h
  run := fun _ => by
    have e32 : (BitVec.ofNat 32 n).toNat = n := by rw [BitVec.toNat_ofNat]; omega
    have e9 : (BitVec.ofNat 9 n).toNat = n := by rw [BitVec.toNat_ofNat]; omega
    refine ⟨rfl, rfl, rfl, rfl, rfl, ⟨storeWf_rampStore _ _ _ _ (Nat.le_refl _), ?_, ?_, by simp [running], by simp [running]⟩, ?_, ?_, ?_⟩
    · intro k
      simp only [running, storeRead_rampStore, e32]
      split <;> simp <;> omega
    · intro k b h
      simp only [running, rampTable, storeRead_rampStore, e9] at h ⊢
      split at h
      · cases h; rw [BitVec.toNat_ofNat]; omega
      · cases h
    · show (BitVec.ofNat 32 n).toNat ≤ 8 * 40
      omega
    · intro _
      simp only [running, e32]
      constructor <;> simp [tileCount] <;> omega
    · show (BitVec.ofNat 32 n).toNat = 8 * 40 → _
      omega

/-- The idle state after an ENCODE of the `8 × 32` image of 256 colours and a PSER: both outputs valid. -/
def doneRamp : State :=
  { State.reset with
    table := rampTable 256 256, w := 8#16, h := 32#16, ocnt := 256#32, out := rampStore (BitVec.ofNat 8) 0 256
    plen := 512#10
    pbuf := rampStore (fun j => (slotValue (rampTable 256 256) (j / 2)).extractLsb' (8 * (j % 2)) 8) 0 512
    status := { State.reset.status with ovalid := true, pvalid := true } }

theorem doneRamp_inv : BlockInv doneRamp where
  table := rampTable_inv 256 256 (by omega) (by omega)
  idle := fun _ => by
    have e32 : (256#32).toNat = 256 := rfl
    have e10 : (512#10).toNat = 512 := rfl
    refine ⟨⟨rfl, ⟨storeWf_rampStore _ _ _ _ (Nat.le_refl _), ?_, ?_, by simp [doneRamp], by simp [doneRamp]⟩, fun _ => ⟨rfl, rfl⟩,
        fun h => by simp [doneRamp] at h⟩, ⟨storeWf_rampStore _ _ _ _ (Nat.le_refl _), ?_, fun _ => ⟨rfl, fun i hi => ?_⟩,
        fun h => by simp [doneRamp] at h⟩⟩
    · intro k
      simp only [doneRamp, storeRead_rampStore, e32]
      split <;> simp <;> omega
    · intro k b _
      exact b.isLt
    · intro j
      simp only [doneRamp, storeRead_rampStore, e10]
      split <;> simp <;> omega
    · have hi' : i < 256 := hi
      have h2 : (2 * i + 1) / 2 = i := by omega
      have h3 : (2 * i + 1) % 2 = 1 := by omega
      simp only [doneRamp, storeRead_rampStore]
      rw [if_pos (by omega), if_pos (by omega), h2, h3]
      simp
  run := fun h => by simp [doneRamp, State.reset] at h

/-! ### Well-formedness: the one check refuses an ill-formed term -/

theorem test_wf_pnew_257_refused : (Instr.pnew 257#9).wf = false := by decide

theorem test_wf_pnew_256_accepted : (Instr.pnew 256#9).wf = true := by decide

theorem test_decode_rejects_illformed_pnew : decode (encode (.pnew 257#9)) = .illegal .pnewCapacity := by decide

/-- The constraints of R7 hold of this hardware's parameters. -/
theorem test_config_sound : Config.Sound Config.ctq := by decide

/-! ### Decoding: words written out bit by bit from the formats C, N, Z, D (R84 to R88) -/

/-- op 00000001, A 01111000, B 01010110, G 00110100, R 00010010 -/
theorem test_decode_quant :
    decode 0b0000000101111000010101100011010000010010#40 = .command (.quant ⟨0x12#8, 0x34#8, 0x56#8, 0x78#8⟩) := by
  decide

/-- op 00000010, 23 zeros, cap 100000000 -/
theorem test_decode_pnew : decode 0b0000001000000000000000000000000100000000#40 = .command (.pnew 256#9) := by decide

/-- op 00000011, A 11111111, B 00000000, G 00000000, R 11111111 -/
theorem test_decode_plki :
    decode 0b0000001111111111000000000000000011111111#40 = .command (.plki ⟨255#8, 0#8, 0#8, 255#8⟩) := by
  decide

/-- op 00000100, 32 zeros -/
theorem test_decode_pser : decode 0b0000010000000000000000000000000000000000#40 = .command .pser := by decide

/-- op 00000101, h 0000000000001000, w 0000000000010000 -/
theorem test_decode_encode : decode 0b0000010100000000000010000000000000010000#40 = .command (.encode 16#16 8#16) := by
  decide

/-- The illegal rows of `95_test_vectors.md` 2.1. -/
theorem test_decode_illegal :
    [0x0000000000#40, 0x0600000000#40, 0xFF00000000#40].map decode = List.replicate 3 (.illegal .reservedOpcode) ∧
    [0x0200000101#40, 0x02000001FF#40].map decode = List.replicate 2 (.illegal .pnewCapacity) ∧
    [0x0200000200#40, 0x0280000000#40].map decode = List.replicate 2 (.illegal .pnewReservedBits) ∧
    decode 0x0400000001#40 = .illegal .pserOperand := by
  decide

/-- The opcode table's words through `decodeTableWord` and `withFetchWord`: the next step runs the word (E4: status 1). -/
theorem test_table_words :
    decodeTableWord 40 0x050008000A = some (.encode 10#16 8#16) ∧ decodeTableWord 40 0x0600000000 = none ∧
    nextField (fun t => statusWord t.status) (step (State.reset.withFetchWord 40 0x050008000A)) = some 0x0001#16 ∧
    nextField (fun t => t.result) (step (State.reset.withFetchWord 40 0x0100800000)) = some 0x4000#16 := by
  decide

/-! ### One step of each command -/

/-- Section 2.2: (15,16,23) truncates, it does not round. -/
theorem test_quant_truncates :
    nextField (fun t => (t.result, t.responses)) (step (issued 0x016317100F#40 [] State.reset)) =
      some (0x0841#16, [⟨.ok, 0x0841#16⟩]) := by
  decide

/-- Section 2.2: the maximum leaves bit 15 zero. -/
theorem test_quant_white :
    nextField (fun t => (t.result, statusWord t.status)) (step (issued 0x01FFFFFFFF#40 [] State.reset)) =
      some (0x7FFF#16, 0x0000#16) := by
  decide

/-- T7, from a state with colours: the table is new. -/
theorem test_pnew_zero :
    nextField (fun t => (t.table, statusWord t.status)) (step (issued 0x0200000000#40 [] (idleRamp 3 2))) =
      some (construct 0#9, 0x0000#16) := by
  decide

/-- P1, command 6: a full table refuses a new colour and keeps everything but the code. -/
theorem test_plki_full :
    nextField (fun t => (t.table, t.result, statusWord t.status)) (step (issued 0x03FFFFFFFF#40 [] (idleRamp 3 3))) =
      some (rampTable 3 3, 0#16, 0x0002#16) := by
  decide

/-- T3: a second colour gets slot 1. -/
theorem test_plki_insert :
    nextField (fun t => (t.table.nextFree, storeRead t.table.rev 1, t.result)) (step (issued 0x0300000008#40 [] (idleRamp 256 1))) =
      some (2#9, some 0x0001#16, 1#16) := by
  decide

/-- P1, command 7: two bytes a slot, low byte first. -/
theorem test_pser_p1 :
    nextField (fun t => (t.pbuf.map Prod.snd, t.plen, statusWord t.status))
      (step (issued 0x0400000000#40 []
        { State.reset with table := ⟨3#9, 3#9, [(0x001F, 0#8), (0x03FF, 2#8), (0x7C1F, 1#8)], [(0, 0x001F#16), (1, 0x7C1F#16), (2, 0x03FF#16)]⟩ })) =
      some ([0x1F#8, 0x00#8, 0x1F#8, 0x7C#8, 0xFF#8, 0x03#8], 6#10, 0x0010#16) := by
  decide

/-- T13, with one more slot: the allocated slot's bytes, then zeros. -/
theorem test_pser_zero_tail :
    nextField (fun t => (t.pbuf.map Prod.snd, t.plen)) (step (issued 0x0400000000#40 []
      { State.reset with table := ⟨2#9, 1#9, [(0x7FFF, 0#8)], [(0, 0x7FFF#16)]⟩ })) =
      some ([0xFF#8, 0x7F#8, 0x00#8, 0x00#8], 4#10) := by
  decide

/-- P2: tiles before rows, and slots in the order of the walk. -/
theorem test_encode_tile_order :
    nextField (fun t => ((t.out.map fun c => c.2.toNat).take 16, storeRead t.out 64, t.table.rev.map fun e => e.2.toNat, statusWord t.status))
      (step (issued 0x0500080010#40 (imageGrid 16 8 fun x y => ⟨BitVec.ofNat 8 (8 * (x / 4 + 4 * (y / 4))), 0#8, 0#8, 255#8⟩) State.reset)) =
      some ([0, 0, 0, 0, 1, 1, 1, 1, 0, 0, 0, 0, 1, 1, 1, 1], some 4#8, [0, 1, 4, 5, 2, 3, 6, 7], 0x0008#16) := by
  decide +kernel

/-- The image of P4: 24 wide, 16 tall, 384 distinct colours. -/
def manyColors : Grid := imageGrid 24 16 fun x y => rampColor (24 * y + x)

/-- P4's abort as one step: the 257th colour discards the job. -/
theorem test_encode_too_many :
    nextField (fun t => (t.table, t.out, t.ocnt, t.w, statusWord t.status))
      (fineStep (running 256 (imageGrid 8 40 fun x y => rampColor (8 * y + x)))) =
      some (construct 256#9, [], 0#32, 0#16, 0x0003#16) := by
  decide +kernel

/-- A word of 2.1 that is illegal leaves the reset state with status 4. -/
theorem test_illegal_status :
    nextField (fun t => statusWord t.status) (step (issued 0x0200000101#40 [] State.reset)) = some 0x0004#16 := by
  decide

/-- P2's step-level trace: from PIXSTEP 63 at (0,0,7,7) the next position is (0,1,0,0); after PIXSTEP 127 it wraps. -/
theorem test_advance :
    advance 16#16 8#16 ⟨0#13, 0#13, 7#3, 7#3⟩ = ⟨0#13, 1#13, 0#3, 0#3⟩ ∧
    advance 16#16 8#16 ⟨0#13, 1#13, 7#3, 7#3⟩ = Pos.zero := by
  decide

/-- Section 2.4: ranks. -/
theorem test_ranks : rankOf 24#16 23 15 = 383 ∧ rankOf 32#16 9 10 = 337 ∧ rankOf 16#16 8 0 = 64 := by decide

/-! ### Witnesses: every hypothesis of a statement met at once, each clause at the edge of its range -/

/-- The state `issued` builds accepts its command. -/
theorem accepts_issued (cw : CommandWord) (g : Grid) (s : State) (h1 : s.resetPin = false) (h2 : s.status.busy = false) :
    Accepts (issued cw g s) ⟨cw, g⟩ [] :=
  ⟨h1, h2, rfl⟩

/-- Every command has a next state, with each of its outcomes; also for OneResponsePerCommand. -/
theorem witness_exec_next :
    (∃ t, exec (.quant (rampColor 5)) State.reset = .next t) ∧
    (∃ t, exec (.pnew 256#9) State.reset = .next t) ∧
    (∃ t, exec (.plki (rampColor 0)) State.reset = .next t ∧ t.status.err = .ok) ∧
    (∃ t, exec (.plki (rampColor 3)) (idleRamp 3 3) = .next t ∧ t.status.err = .capacityExceeded) ∧
    (∃ t, exec .pser State.reset = .next t) ∧
    (∃ t, exec (.encode 0#16 0#16) State.reset = .next t ∧ t.status.err = .ok) ∧
    (∃ t, exec (.encode 10#16 8#16) State.reset = .next t ∧ t.status.err = .dimensionError) :=
  ⟨⟨_, rfl⟩, ⟨_, rfl⟩, ⟨_, rfl, rfl⟩, ⟨_, rfl, rfl⟩, ⟨_, rfl⟩, ⟨_, rfl, rfl⟩, ⟨_, rfl, rfl⟩⟩

/-- The reset state meets the invariant. -/
theorem reset_blockInv : BlockInv State.reset := idleRamp_inv 256 0 (by omega) (by omega)

/-- The pixels of an image in traversal order. -/
theorem traversal_imageGrid (w h : Dim) (f : Nat → Nat → TrueColor)
    (hb : ∀ k, k < w.toNat * h.toNat → rankX w k < w.toNat ∧ rankY w k < h.toNat) :
    TraversalPixels (imageGrid w.toNat h.toNat f) w h
      ((List.range (w.toNat * h.toNat)).map fun k => f (rankX w k) (rankY w k)) where
  length := by simp
  pixel := fun k hk => by
    rw [gridRead_imageGrid _ _ _ _ _ (hb k hk).1 (hb k hk).2]
    simp [hk]

/-- Pixel `k`, in traversal order, of the images below: the first 257 have distinct colours, the rest the last of those. -/
def rampPixel (k : Nat) : TrueColor := rampColor (min k 256)

/-- The images 8 wide: 256 distinct colours at height 32, and 257 at height 40. -/
def rampImage (h : Nat) : Grid := imageGrid 8 h fun x y => rampPixel (8 * y + x)

theorem rank_eight (k : Nat) : rankX 8#16 k = k % 8 ∧ 8 * rankY 8#16 k + rankX 8#16 k = k := by
  simp only [rankX, rankY, show tileCount 8#16 = 1 from rfl, Nat.mod_one, Nat.div_one]
  omega

theorem traversal_rampImage (h : Dim) (n : Nat) (hn : n = 8 * h.toNat) :
    TraversalPixels (rampImage h.toNat) 8#16 h ((List.range n).map rampPixel) where
  length := by simp [hn]
  pixel := fun k hk => by
    have e := rank_eight k
    have hk' : k < 8 * h.toNat := hk
    rw [rampImage, gridRead_imageGrid _ _ _ _ _ (by omega) (by omega), e.2]
    simp [hn, hk']

theorem quantize_rampColor (n : Nat) (h : n < 512) : quantize (rampColor n) = BitVec.ofNat 16 n := by
  revert n; decide +kernel

theorem firstSeen_of_nodup (qs : List HardwareColor) : ∀ seen, (seen ++ qs).Nodup → firstSeen seen qs = seen ++ qs := by
  induction qs with
  | nil => intro seen _; simp [firstSeen]
  | cons q qs ih =>
    intro seen h
    have hq : q ∉ seen := fun hm => (List.nodup_append.1 h).2.2 q hm q List.mem_cons_self rfl
    rw [firstSeen, if_neg hq, ih (seen ++ [q]) (by simpa using h)]
    simp

theorem distinctColors_ramp (n : Nat) (h : n ≤ 512) :
    distinctColors ((List.range n).map rampColor) = (List.range n).map (BitVec.ofNat 16) := by
  have e : ((List.range n).map rampColor).map quantize = (List.range n).map (BitVec.ofNat 16) := by
    rw [List.map_map]
    exact List.map_congr_left fun k hk => quantize_rampColor k (by have := List.mem_range.1 hk; omega)
  have hnd : ((List.range n).map (BitVec.ofNat 16)).Nodup := by
    refine List.nodup_range.map_on fun a ha b hb hab => ?_
    have h1 := List.mem_range.1 ha
    have h2 := List.mem_range.1 hb
    have h3 := congrArg BitVec.toNat hab
    simp only [BitVec.toNat_ofNat] at h3
    omega
  rw [distinctColors, e]
  exact firstSeen_of_nodup _ [] hnd

theorem map_rampPixel_256 : (List.range 256).map rampPixel = (List.range 256).map rampColor :=
  List.map_congr_left fun k hk => by
    have := List.mem_range.1 hk
    rw [rampPixel, Nat.min_eq_left (by omega)]

theorem firstSeen_append (qs qs' : List HardwareColor) : ∀ seen,
    firstSeen seen (qs ++ qs') = firstSeen (firstSeen seen qs) qs' := by
  induction qs with
  | nil => intro seen; rfl
  | cons q qs ih =>
    intro seen
    rw [List.cons_append, firstSeen, firstSeen]
    split <;> rw [ih]

theorem firstSeen_replicate (n : Nat) (q : HardwareColor) (seen : List HardwareColor) (h : q ∈ seen) :
    firstSeen seen (List.replicate n q) = seen := by
  induction n with
  | zero => rfl
  | succ n ih => rw [List.replicate_succ, firstSeen, if_pos h, ih]

/-- The 320 pixels at height 40 have exactly 257 colours. -/
theorem distinctColors_257 :
    distinctColors ((List.range 320).map rampPixel) = (List.range 257).map (BitVec.ofNat 16) := by
  have e : (List.range 320).map rampPixel = (List.range 257).map rampColor ++ List.replicate 63 (rampColor 256) := by
    decide +kernel
  have h := distinctColors_ramp 257 (by omega)
  rw [distinctColors] at h
  rw [distinctColors, e, List.map_append, firstSeen_append, h, List.map_replicate, firstSeen_replicate]
  rw [quantize_rampColor 256 (by omega)]
  exact List.mem_map.2 ⟨256, List.mem_range.2 (by omega), rfl⟩

theorem rampImage_covers (h : Dim) : GridCovers (rampImage h.toNat) 8#16 h := fun x y hx hy => by
  rw [rampImage, gridRead_imageGrid 8 _ _ _ _ hx hy]
  rfl

theorem witness_DecodeProcedureAndItsInverse :
    [0x01FFFFFFFF#40, 0x0200000100#40, 0x0300000000#40, 0x0400000000#40, 0x05FFFFFFFF#40, 0x0200000101#40, 0x0200000200#40,
        0x0400000001#40, 0x0000000000#40, 0x0600000000#40].map (fun cw => (cw.toNat / 2 ^ 32, cw.toNat % 2 ^ 32)) =
      [(1, 0xFFFFFFFF), (2, 256), (3, 0), (4, 0), (5, 0xFFFFFFFF), (2, 257), (2, 512), (4, 1), (0, 0), (6, 0)] ∧
    256 / 2 ^ 9 = 0 ∧ (Instr.pnew 256#9).wf = true ∧ decode 0x05FFFFFFFF#40 = .command (.encode 65535#16 65535#16) := by
  decide

/-- Also for IllegalCommandEntry and the illegal clauses of OneResponsePerCommand, CodesEachCommandCanEndWith and
ResultWrittenOnlyByQuantAndPlki. -/
theorem witness_IllegalWordsAndTheirEffect :
    ∃ s r rest why, Accepts s r rest ∧ decode r.word = .illegal why :=
  ⟨_, _, _, .pnewCapacity, accepts_issued 0x0200000101#40 [] State.reset rfl rfl, by decide⟩

theorem witness_OpcodeMapByMatchAndMask :
    ∀ op ∈ [1, 2, 3, 4, 5], 0x06FFFFFFFF#40 &&& 0xFF00000000#40 ≠ BitVec.ofNat 40 (op * 2 ^ 32) := by
  decide

theorem witness_QuantizeCollapseLaw : (0x7FFF#16).toNat ≤ 0x7FFF := by decide

/-- The hypotheses inside `TakesWord` (QuantCommand, PnewCommand, PlkiCommand, PserCommand). -/
theorem witness_QuantCommand : ∃ s r rest, Accepts s r rest ∧ r.word = encode (.quant (rampColor 5)) :=
  ⟨_, _, _, accepts_issued (encode (.quant (rampColor 5))) [] State.reset rfl rfl, rfl⟩

theorem witness_ConstructGivesEmptyTable : (256#9).toNat ≤ 256 := by decide

theorem witness_PnewCommand :
    (256#9).toNat ≤ 256 ∧ 256 < (257#9).toNat ∧ State.reset.status.busy = false ∧ State.reset.pos = ⟨0#13, 0#13, 0#3, 0#3⟩ := by
  decide

/-- A hit at the last slot, a new colour with the table full, a new colour with one slot left; also for
LookupKeepsTableInvariant. -/
theorem witness_LookupOrInsertProcedure :
    (TableInv (rampTable 3 3) ∧ storeRead (rampTable 3 3).fwd (quantize (rampColor 2)).toNat = some 2#8) ∧
    (TableInv (rampTable 3 3) ∧ storeRead (rampTable 3 3).fwd (quantize (rampColor 3)).toNat = none ∧
      (rampTable 3 3).nextFree = (rampTable 3 3).cap) ∧
    (TableInv (rampTable 3 2) ∧ storeRead (rampTable 3 2).fwd (quantize (rampColor 2)).toNat = none ∧
      (rampTable 3 2).nextFree ≠ (rampTable 3 2).cap) :=
  ⟨⟨rampTable_inv 3 3 (by omega) (by omega), by decide⟩, ⟨rampTable_inv 3 3 (by omega) (by omega), by decide, by decide⟩,
    ⟨rampTable_inv 3 2 (by omega) (by omega), by decide, by decide⟩⟩

theorem witness_PlkiCommand :
    storeRead (idleRamp 3 3).table.fwd (quantize (rampColor 2)).toNat = some 2#8 ∧
    (storeRead (idleRamp 3 3).table.fwd (quantize (rampColor 3)).toNat = none ∧
      (idleRamp 3 3).table.nextFree = (idleRamp 3 3).table.cap) ∧
    (TableInv (idleRamp 3 2).table ∧ storeRead (idleRamp 3 2).table.fwd (quantize (rampColor 2)).toNat = none ∧
      (idleRamp 3 2).table.nextFree ≠ (idleRamp 3 2).table.cap) ∧
    (1 ≤ (1#9).toNat ∧ (idleRamp 1 0).table = construct 1#9) :=
  ⟨by decide, by decide, ⟨rampTable_inv 3 2 (by omega) (by omega), by decide, by decide⟩, by decide⟩

theorem witness_RepeatedLookupIsIdempotent :
    (lookupReply (construct 1#9) ⟨255#8, 255#8, 255#8, 255#8⟩).1 = some 0#8 ∧
    quantize ⟨248#8, 250#8, 253#8, 0#8⟩ = quantize ⟨255#8, 255#8, 255#8, 255#8⟩ := by
  decide

theorem witness_LookupsAreDeterminedByFirstOccurrence :
    (256#9).toNat ≤ 256 ∧ 2 < (3#9).toNat ∧ (distinctColors [rampColor 7, rampColor 9, rampColor 7, rampColor 8])[2]? = some 8#16 ∧
    [⟨0#8, 0#8, 0#8, 0#8⟩].map quantize = [⟨7#8, 7#8, 7#8, 200#8⟩].map quantize := by
  decide

/-- Capacity 3 and the five lookups of S4: colour 2 is the last to get a slot, the fifth lookup the first to fail. -/
theorem witness_CapacityBoundary :
    let cs := [rampColor 4, rampColor 5, rampColor 4, rampColor 6, rampColor 7]
    (3#9).toNat ≤ 256 ∧ cs[3]? = some (rampColor 6) ∧ (distinctColors cs)[2]? = some (quantize (rampColor 6)) ∧ 2 < (3#9).toNat ∧
    cs[4]? = some (rampColor 7) ∧ (distinctColors (cs.take 4)).length = (3#9).toNat ∧
    quantize (rampColor 7) ∉ distinctColors (cs.take 4) := by
  decide

theorem witness_LookupKeepsTableInvariant :
    (TableInv (rampTable 3 3) ∧ ∀ slot t', lookupOrInsert (rampTable 3 3) (rampColor 3) ≠ .inserted slot t') ∧
    (TableInv (rampTable 3 2) ∧ ∃ slot t', lookupOrInsert (rampTable 3 2) (rampColor 2) = .inserted slot t') :=
  ⟨⟨rampTable_inv 3 3 (by omega) (by omega), fun slot t' => by
      rw [show lookupOrInsert (rampTable 3 3) (rampColor 3) = .capacityExceeded by decide]
      simp⟩,
    ⟨rampTable_inv 3 2 (by omega) (by omega), _, _, rfl⟩⟩

/-- The last allocated slot, and the first and the last slot never allocated. -/
theorem witness_SerializeLayout :
    (1 < (rampTable 4 2).cap.toNat ∧ 1 < (rampTable 4 2).nextFree.toNat ∧ storeRead (rampTable 4 2).rev 1 = some 1#16) ∧
    (2 < (rampTable 4 2).cap.toNat ∧ (rampTable 4 2).nextFree.toNat ≤ 2) ∧
    (3 < (rampTable 4 2).cap.toNat ∧ (rampTable 4 2).nextFree.toNat ≤ 3) := by
  decide

theorem witness_PserCommand :
    (TableInv (rampTable 3 2) ∧ storeRead (serialize (rampTable 3 2)) (2 * 1 + 1) = some 0#8) ∧
    (TableInv (idleRamp 3 2).table ∧ (idleRamp 3 2).status.busy = false ∧ PaletteInv (idleRamp 3 2) ∧
      2 * (idleRamp 3 2).table.cap.toNat ≤ 6) :=
  have h := idleRamp_inv 3 2 (by omega) (by omega)
  ⟨⟨rampTable_inv 3 2 (by omega) (by omega), by decide⟩, h.table, rfl, (h.idle rfl).2, by decide⟩

theorem witness_SerializationRoundTrip :
    TableInv (idleRamp 4 2).table ∧ (idleRamp 4 2).status.busy = false ∧
    (1 < (idleRamp 4 2).table.nextFree.toNat ∧ storeRead (idleRamp 4 2).table.rev 1 = some 1#16) ∧
    ((idleRamp 4 2).table.nextFree.toNat ≤ 3 ∧ 3 < (idleRamp 4 2).table.cap.toNat) :=
  ⟨rampTable_inv 4 2 (by omega) (by omega), by decide⟩

theorem witness_RepeatedPserWritesTheSame :
    let is := [Instr.quant (rampColor 9), .plki (rampColor 2), .plki (rampColor 3), .encode 10#16 8#16, .pser]
    ∃ t u, exec .pser (idleRamp 3 3) = .next t ∧ AllLeaveTable is t ∧ runCommands is t = .next u := by
  refine ⟨_, _, rfl, ⟨trivial, fun t h => ?_⟩, rfl⟩
  cases h
  refine ⟨(fun slot t h => by cases h), fun t h => ?_⟩
  cases h
  refine ⟨(fun slot t h => by cases h), fun t h => ?_⟩
  cases h
  refine ⟨rfl, fun t h => ?_⟩
  cases h
  exact ⟨trivial, fun t _ => trivial⟩

theorem witness_DimensionErrorChangesOnlyTheCode :
    ((10#16).toNat % 8 ≠ 0 ∧ (8#16).toNat % 8 = 0) ∧ ((8#16).toNat % 8 = 0 ∧ (65535#16).toNat % 8 ≠ 0) := by
  decide

theorem witness_EmptyGridSucceeds :
    ((0#16).toNat % 8 = 0 ∧ (65528#16).toNat % 8 = 0 ∧ (0#16 = 0#16 ∨ 65528#16 = 0#16)) ∧
    ((65528#16).toNat % 8 = 0 ∧ (0#16).toNat % 8 = 0 ∧ (65528#16 = 0#16 ∨ 0#16 = 0#16)) := by
  decide

theorem witness_TraversalRankIsABijection :
    (16#16).toNat % 8 = 0 ∧ (8#16).toNat % 8 = 0 ∧ 127 < (16#16).toNat * (8#16).toNat ∧ 15 < (16#16).toNat ∧ 7 < (8#16).toNat := by
  decide

/-- Exactly 256 colours; pixel 255 is one of them, position 256 is past the end; also for StreamIsInTileOrder (tile 3, its last
row and column). -/
theorem witness_EncodeOutputsInClosedForm :
    (8#16).toNat % 8 = 0 ∧ (32#16).toNat % 8 = 0 ∧
    TraversalPixels { State.reset with grid := rampImage 32 }.grid 8#16 32#16 ((List.range 256).map rampPixel) ∧
    (distinctColors ((List.range 256).map rampPixel)).length = 256 ∧
    ((distinctColors ((List.range 256).map rampPixel))[255]? = some 255#16 ∧
      256#16 ∉ distinctColors ((List.range 256).map rampPixel)) ∧
    (((List.range 256).map rampPixel)[255]? = some (rampPixel 255) ∧ (8#16).toNat * (32#16).toNat ≤ 256) ∧
    (3 < tileCount 8#16 * tileCount 32#16 ∧ 7 < 8) := by
  refine ⟨rfl, rfl, traversal_rampImage 32#16 256 rfl, ?_, ?_, ⟨by simp, by decide⟩, by decide⟩
  · simp [map_rampPixel_256, distinctColors_ramp]
  · rw [map_rampPixel_256, distinctColors_ramp 256 (by omega)]
    refine ⟨by simp, fun hm => ?_⟩
    obtain ⟨k, hk, e⟩ := List.mem_map.1 hm
    have h1 := List.mem_range.1 hk
    have h2 := congrArg BitVec.toNat e
    simp only [BitVec.toNat_ofNat] at h2
    omega

theorem storeWrite_rampStore {α : Type} (f : Nat → α) (n : Nat) : ∀ k,
    storeWrite (rampStore f k n) (k + n) (f (k + n)) = rampStore f k (n + 1) := by
  induction n with
  | zero => intro k; rfl
  | succ n ih =>
    intro k
    have h : k + (n + 1) = k + 1 + n := by omega
    rw [rampStore, storeWrite, if_neg (by omega), if_neg (by omega), h, ih (k + 1)]
    rfl

/-- The ENCODE of the `8 × 40` image, `k ≤ 256` pixels in. -/
def rampJob (k : Nat) : State :=
  { startJob 8#16 40#16 { State.reset with grid := rampImage 40 } with
    table := rampTable 256 k, out := rampStore (BitVec.ofNat 8) 0 k, ocnt := BitVec.ofNat 32 k }

theorem rampJob_visit (k : Nat) (hk : k ≤ 256) :
    (k < 256 → visitPixel (k % 8) (k / 8) (rampJob k) = .appended (rampJob (k + 1))) ∧
    (k = 256 → visitPixel (k % 8) (k / 8) (rampJob k) = .full) := by
  have hg : gridRead (rampJob k).grid (k % 8) (k / 8) = some (rampColor k) := by
    show gridRead (rampImage 40) (k % 8) (k / 8) = _
    rw [rampImage, gridRead_imageGrid 8 40 _ _ _ (by omega) (by omega), show 8 * (k / 8) + k % 8 = k by omega, rampPixel,
      Nat.min_eq_left hk]
  have hq : (quantize (rampColor k)).toNat = k := by
    rw [quantize_rampColor k (by omega), BitVec.toNat_ofNat]
    omega
  have hf : storeRead (rampJob k).table.fwd (quantize (rampColor k)).toNat = none := by
    show storeRead (rampStore (BitVec.ofNat 8) 0 k) _ = none
    rw [storeRead_rampStore, if_neg (by omega)]
  rcases lookupOrInsert_cases (rampJob k).table (rampColor k) with ⟨slot, h, _⟩ | ⟨_, he, h⟩ | ⟨_, hne, h⟩
  · rw [hf] at h
    cases h
  · have e := congrArg BitVec.toNat he
    simp only [rampJob, rampTable, BitVec.toNat_ofNat] at e
    exact ⟨fun h2 => by omega, fun _ => by simp [visitPixel, hg, h]⟩
  · refine ⟨fun h2 => ?_, fun h2 => absurd (congrArg (BitVec.ofNat 9) h2) hne⟩
    have ho : (BitVec.ofNat 32 k).toNat = k := by rw [BitVec.toNat_ofNat]; omega
    have hn : (BitVec.ofNat 9 k).toNat = k := by rw [BitVec.toNat_ofNat]; omega
    have hs : (BitVec.ofNat 9 k).setWidth 8 = BitVec.ofNat 8 k := by
      apply BitVec.eq_of_toNat_eq
      simp only [BitVec.toNat_setWidth, BitVec.toNat_ofNat]
      omega
    have w8 := storeWrite_rampStore (BitVec.ofNat 8) k 0
    have w16 := storeWrite_rampStore (BitVec.ofNat 16) k 0
    rw [Nat.zero_add] at w8 w16
    have hi : colorIndex (BitVec.ofNat 16 k) = k := by
      rw [← quantize_rampColor k (by omega), colorIndex_quantize, hq]
    simp only [visitPixel, hg, h, appendIndex, memWrite_one]
    simp only [rampJob, rampTable, insertColor, hi, ho, hn, hs, w8, quantize_rampColor k (by omega), w16, BitVec.ofNat_add]

theorem drop_map_range {α : Type} (f : Nat → α) (n k : Nat) (h : k < n) :
    ((List.range n).map f).drop k = f k :: ((List.range n).map f).drop (k + 1) := by
  rw [List.drop_eq_getElem_cons (by simpa using h)]
  simp

/-- Position `k` of a walk over one-tile rows. -/
def rampPosition (k : Nat) : Nat × Nat := (k % 8, k / 8)

theorem rampJob_walk (n : Nat) : ∀ k, k + n = 256 →
    walkPixels (((List.range 320).map rampPosition).drop k) (rampJob k) = .full (rampJob 256) := by
  induction n with
  | zero =>
    intro k h
    rw [drop_map_range rampPosition 320 k (by omega), rampPosition, walkPixels, (rampJob_visit k (by omega)).2 h]
    rw [show k = 256 from h]
  | succ n ih =>
    intro k h
    rw [drop_map_range rampPosition 320 k (by omega), rampPosition, walkPixels, (rampJob_visit k (by omega)).1 (by omega)]
    exact ih (k + 1) (by omega)

/-- The ENCODE of 257 colours, run. -/
theorem tooManyColors_runs :
    ∃ t, exec (.encode 8#16 40#16) { State.reset with grid := rampImage 40 } = .next t ∧ t.status.err = .tooManyColors := by
  have hw : walkOrder 8#16 40#16 = (List.range 320).map rampPosition := by decide +kernel
  have h := rampJob_walk 256 0 (by omega)
  rcases execEncode_cases 8#16 40#16 { State.reset with grid := rampImage 40 } with ⟨hd, _⟩ | ⟨_, h'⟩
  · exact absurd hd (by decide)
  · rw [hw, ← List.drop_zero (l := (List.range 320).map rampPosition)] at h'
    rcases h' with ⟨s', h', _⟩ | ⟨s', _, e⟩ | ⟨x, y, h', _⟩
    · cases h'.symm.trans h
    · exact ⟨_, e, rfl⟩
    · cases h'.symm.trans h

/-- Exactly 257 colours; also for EncodeFailurePoint. -/
theorem witness_TooManyColorsDiscardsTheJob :
    ((8#16).toNat % 8 = 0 ∧ (40#16).toNat % 8 = 0 ∧ State.reset.resetPin = false ∧
      TraversalPixels { State.reset with grid := rampImage 40 }.grid 8#16 40#16 ((List.range 320).map rampPixel) ∧
      256 < (distinctColors ((List.range 320).map rampPixel)).length ∧
      (distinctColors ((List.range 320).map rampPixel)).length = 257) ∧
    ∃ t, exec (.encode 8#16 40#16) { State.reset with grid := rampImage 40 } = .next t ∧ t.status.err = .tooManyColors :=
  ⟨⟨rfl, rfl, rfl, traversal_rampImage 40#16 320 rfl, by simp [distinctColors_257], by simp [distinctColors_257]⟩, tooManyColors_runs⟩

/-- 257 defined pixels, and nothing else of the grid: row 32 has one pixel, row 33 none. -/
theorem witness_AbortReadsNoLaterPixel :
    let g := (rampImage 40).take 32 ++ [[rampColor 256]]
    let cs := (List.range 257).map rampColor
    (8#16).toNat % 8 = 0 ∧ (40#16).toNat % 8 = 0 ∧ cs.length ≤ (8#16).toNat * (40#16).toNat ∧
    (∀ k, k < cs.length → gridRead g (rankX 8#16 k) (rankY 8#16 k) = cs[k]?) ∧ 256 < (distinctColors cs).length := by
  refine ⟨rfl, rfl, by simp, fun k hk => ?_, by simp [distinctColors_ramp]⟩
  have hk' : k < 257 := by simpa using hk
  have e := rank_eight k
  have hx : rankX 8#16 k = k % 8 := e.1
  have hy : rankY 8#16 k = k / 8 := by omega
  rw [hx, hy]
  by_cases h : k = 256
  · subst h; rfl
  · have h8 : 8 * (k / 8) + k % 8 = k := by omega
    have h3 : k / 8 < 32 := by omega
    simp [gridRead, rampImage, imageGrid, rampPixel, h3, h8, hk', Nat.mod_lt, Nat.lt_trans h3, show min k 256 = k by omega]

theorem witness_StepLevelAgreesWithCommandLevel :
    ∃ s r rest, Accepts s r rest ∧ s.pos = ⟨0#13, 0#13, 0#3, 0#3⟩ ∧ decode r.word = .command (.encode 16#16 8#16) :=
  ⟨_, _, _, accepts_issued 0x0500080010#40 [] State.reset rfl rfl, rfl, by decide⟩

theorem witness_EncodeStartStep :
    ∃ s r rest, Accepts s r rest ∧ decode r.word = .command (.encode 16#16 8#16) ∧ (16#16).toNat % 8 = 0 ∧ (8#16).toNat % 8 = 0 :=
  ⟨_, _, _, accepts_issued 0x0500080010#40 [] State.reset rfl rfl, by decide⟩

/-- The last pixel the table has room for; a pixel whose colour has the last slot; a new colour with the table full. -/
theorem witness_PixstepEffect :
    let s := running 255 (rampImage 40)
    let s' := running 256 (imageGrid 8 40 fun _ _ => rampColor 255)
    let s'' := running 256 (rampImage 40)
    ((BlockInv s ∧ s.resetPin = false ∧ s.status.busy = true ∧ s.ocnt.toNat < s.w.toNat * s.h.toNat) ∧
      gridRead s.grid (pixelX s.pos) (pixelY s.pos) = some (rampColor 255) ∧
      ∃ slot t, lookupOrInsert s.table (rampColor 255) = .inserted slot t) ∧
    ((BlockInv s' ∧ s'.resetPin = false ∧ s'.status.busy = true ∧ s'.ocnt.toNat < s'.w.toNat * s'.h.toNat) ∧
      gridRead s'.grid (pixelX s'.pos) (pixelY s'.pos) = some (rampColor 255) ∧
      lookupOrInsert s'.table (rampColor 255) = .hit 255#8) ∧
    ((BlockInv s'' ∧ s''.resetPin = false ∧ s''.status.busy = true ∧ s''.ocnt.toNat < s''.w.toNat * s''.h.toNat) ∧
      gridRead s''.grid (pixelX s''.pos) (pixelY s''.pos) = some (rampColor 256) ∧
      lookupOrInsert s''.table (rampColor 256) = .capacityExceeded) := by
  refine ⟨⟨⟨running_inv _ _ (by omega), rfl, rfl, by decide⟩, by decide +kernel, ?_⟩,
    ⟨⟨running_inv _ _ (by omega), rfl, rfl, by decide⟩, by decide +kernel, by decide +kernel⟩,
    ⟨⟨running_inv _ _ (by omega), rfl, rfl, by decide⟩, by decide +kernel, by decide +kernel⟩⟩
  rcases lookupOrInsert_cases (running 255 (rampImage 40)).table (rampColor 255) with ⟨slot, h, _⟩ | ⟨_, h, _⟩ | ⟨_, _, h⟩
  · rw [show storeRead (running 255 (rampImage 40)).table.fwd (quantize (rampColor 255)).toNat = none by decide +kernel] at h
    cases h
  · exact absurd h (by decide)
  · exact ⟨_, _, h⟩

/-- The last position of an image, and the largest one of the largest image. -/
theorem witness_AdvanceAddsOneInMixedRadix :
    ((⟨0#13, 1#13, 7#3, 7#3⟩ : Pos).trow.toNat < tileCount 8#16 ∧ (⟨0#13, 1#13, 7#3, 7#3⟩ : Pos).tcol.toNat < tileCount 16#16) ∧
    ((8190#13).toNat < tileCount 65528#16 ∧ (8190#13).toNat < tileCount 65535#16) := by
  decide

theorem witness_CompletionStep :
    let s := { running 256 (rampImage 32) with h := 32#16 }
    s.resetPin = false ∧ s.status.busy = true ∧ s.ocnt.toNat = s.w.toNat * s.h.toNat := by
  decide

theorem witness_RunPhaseEnds :
    let s := running 0 (rampImage 40)
    BlockInv s ∧ s.resetPin = false ∧ s.status.busy = true ∧ GridCovers s.grid s.w s.h :=
  ⟨running_inv _ _ (by omega), rfl, rfl, rampImage_covers 40#16⟩

/-- Two states with one grid and nothing else in common; an ENCODE of one of them has a next state. -/
theorem witness_EncodeForgetsThePreviousJob :
    (idleRamp 3 3).grid = State.reset.grid ∧ (0#16).toNat % 8 = 0 ∧ (8#16).toNat % 8 = 0 ∧
    ∃ t, exec (.encode 0#16 8#16) (idleRamp 3 3) = .next t :=
  ⟨rfl, rfl, rfl, _, rfl⟩

/-- Two grids that differ outside the image; the next-state clause is met by `witness_exec_next`, the refusal by the grid that
lacks the image. -/
theorem witness_EncodeReadsOnlyInsideTheGrid :
    (∀ x y, x < (0#16).toNat → y < (8#16).toNat → gridRead [[rampColor 1]] x y = gridRead State.reset.grid x y) ∧
    (∃ t, exec (.encode 0#16 8#16) State.reset = .next t) ∧
    (∀ x y, x < (8#16).toNat → y < (8#16).toNat → gridRead [[], []] x y = gridRead State.reset.grid x y) ∧
    ∃ e, exec (.encode 8#16 8#16) State.reset = .refused e :=
  ⟨(fun x y hx _ => by simp at hx), ⟨_, rfl⟩, fun x y _ _ => by
    rcases y with _ | _ | y <;> simp [gridRead, State.reset], ⟨_, rfl⟩⟩

/-- The host readied an 8 × 8 ENCODE with no pixel. -/
theorem witness_RefusedOnlyByAnUndefinedPixel : ∃ e, exec (.encode 8#16 8#16) State.reset = .refused e := ⟨_, rfl⟩

theorem witness_StepRunsTheDecodedCommand :
    ∃ (s : State) (r : Request) (rest : List Request), s.resetPin = false ∧ s.status.busy = false ∧ s.port = r :: rest ∧ decode r.word = .command (.pnew 3#9) :=
  ⟨issued 0x0200000003#40 [] State.reset, _, _, rfl, rfl, rfl, by decide⟩

theorem witness_IdleBlockHoldsItsState :
    State.reset.resetPin = false ∧ State.reset.status.busy = false ∧ State.reset.port = [] := by
  decide

/-- One PIXSTEP, and one byte nobody may read. -/
theorem witness_RunPhaseTakesNoCommand :
    let s := running 0 (rampImage 40)
    s.resetPin = false ∧ s.status.busy = true ∧ (∃ t, step s = .next t) ∧ 0 < 1 :=
  ⟨rfl, rfl, ⟨_, rfl⟩, by omega⟩

theorem witness_ResetInputGivesTheResetState : (hostAssertReset (running 5 [])).resetPin = true := rfl

/-- One step at each level, and a full table. -/
theorem witness_StepKeepsTheTableInvariant :
    (∃ t, TableInv (idleRamp 3 2).table ∧ step (issued 0x0300000040#40 [] (idleRamp 3 2)) = .next t) ∧
    (∃ t, TableInv (running 5 (rampImage 40)).table ∧ fineStep (running 5 (rampImage 40)) = .next t) ∧
    (TableInv (rampTable 256 256) ∧ storeRead (rampTable 256 256).rev 255 = some 255#16) :=
  ⟨⟨_, rampTable_inv 3 2 (by omega) (by omega), rfl⟩, ⟨_, rampTable_inv 256 5 (by omega) (by omega), rfl⟩,
    rampTable_inv 256 256 (by omega) (by omega), by decide +kernel⟩

/-- Also for StepKeepsSpacesCanonical, whose hypothesis the second part meets. -/
theorem witness_StepKeepsTheInvariant :
    (∃ t, BlockInv (idleRamp 3 2) ∧ step (idleRamp 3 2) = .next t) ∧
    (∃ t, BlockInv (running 5 (rampImage 40)) ∧ fineStep (running 5 (rampImage 40)) = .next t) ∧
    SpacesWf (running 5 (rampImage 40)) :=
  ⟨⟨_, idleRamp_inv 3 2 (by omega) (by omega), rfl⟩, ⟨_, running_inv _ _ (by omega), rfl⟩, by decide, by decide, by decide, by decide⟩

/-- An idle state with an ENCODE pending, and a running one. -/
theorem witness_StepGoesOnUnderTheHostsDuties :
    (BlockInv { idleRamp 256 0 with port := [⟨0x0500280008#40, rampImage 40⟩] } ∧
      HostDuty { idleRamp 256 0 with port := [⟨0x0500280008#40, rampImage 40⟩] }) ∧
    (BlockInv (running 5 (rampImage 40)) ∧ HostDuty (running 5 (rampImage 40))) := by
  have h := idleRamp_inv 256 0 (by omega) (by omega)
  refine ⟨⟨⟨h.table, fun _ => ⟨⟨rfl, ⟨rfl, (h.idle rfl).1.stream.out_listed, (h.idle rfl).1.stream.out_slot, rfl, rfl⟩,
      fun e => by simp [idleRamp, State.reset] at e, fun _ => ⟨rfl, rfl, rfl⟩⟩,
      ⟨rfl, (h.idle rfl).2.pbuf_listed, fun e => by simp [idleRamp, State.reset] at e, fun _ => rfl⟩⟩,
      fun e => by simp [idleRamp, State.reset] at e⟩, ⟨?_, fun e => by simp [idleRamp, State.reset] at e⟩⟩,
    running_inv _ _ (by omega), ⟨(fun r hr => by simp [running, State.reset] at hr), fun _ => rampImage_covers 40#16⟩⟩
  intro r hr w h hd
  simp only [List.mem_singleton] at hr
  subst hr
  rw [show decode 0x0500280008#40 = .command (.encode 8#16 40#16) by decide] at hd
  cases hd
  exact rampImage_covers 40#16

/-- Also for OneResponsePerCommand; the other hypotheses of both are `witness_exec_next`. -/
theorem witness_CodesEachCommandCanEndWith :
    (8#16).toNat % 8 = 0 ∧ (0#16).toNat % 8 = 0 ∧ TraversalPixels State.reset.grid 8#16 0#16 [] ∧
    ∃ t, exec (.encode 8#16 0#16) State.reset = .next t :=
  ⟨rfl, rfl, ⟨rfl, (fun k hk => by simp at hk)⟩, _, rfl⟩

theorem witness_ResultWrittenOnlyByQuantAndPlki :
    (∃ t, exec (.plki (rampColor 2)) (idleRamp 3 3) = .next t ∧ lookupOrInsert (idleRamp 3 3).table (rampColor 2) = .hit 2#8) ∧
    (∃ t slot u, exec (.plki (rampColor 2)) (idleRamp 3 2) = .next t ∧
      lookupOrInsert (idleRamp 3 2).table (rampColor 2) = .inserted slot u) ∧
    (∃ t, exec (.plki (rampColor 3)) (idleRamp 3 3) = .next t ∧
      lookupOrInsert (idleRamp 3 3).table (rampColor 3) = .capacityExceeded) ∧
    ∃ t, sequencerStep (running 5 (rampImage 40)) = .next t :=
  ⟨⟨_, rfl, rfl⟩, ⟨_, _, _, rfl, rfl⟩, ⟨_, rfl, rfl⟩, ⟨_, rfl⟩⟩

/-- A hit, an insertion, a PNEW after a PSER, and an ENCODE that passes its check after a job whose stream was valid. -/
theorem witness_ValidityFlagsFollowTheTable :
    (∃ t, exec (.plki (rampColor 2)) (idleRamp 3 3) = .next t ∧ t.table = (idleRamp 3 3).table) ∧
    (∃ t slot u, exec (.plki (rampColor 2)) (idleRamp 3 2) = .next t ∧
      lookupOrInsert (idleRamp 3 2).table (rampColor 2) = .inserted slot u) ∧
    (∃ s t, exec .pser State.reset = .next s ∧ exec (.pnew 1#9) s = .next t ∧ s.status.pvalid = true ∧ t.status.pvalid = false) ∧
    (∃ s t, exec (.encode 0#16 8#16) State.reset = .next s ∧ exec (.pnew 1#9) s = .next t ∧ s.status.ovalid = true ∧
      t.status.ovalid = false) ∧
    ((0#16).toNat % 8 = 0 ∧ (8#16).toNat % 8 = 0) :=
  ⟨⟨_, rfl, rfl⟩, ⟨_, _, _, rfl, rfl⟩, ⟨_, _, rfl, rfl, rfl, rfl⟩, ⟨_, _, rfl, rfl, rfl, rfl⟩, rfl, rfl⟩

theorem witness_CapacityAndCountChangeOnlyAsStated :
    TableInv (idleRamp 3 2).table ∧ (∃ t, exec (.plki (rampColor 2)) (idleRamp 3 2) = .next t) ∧
    (∃ t, exec (.encode 10#16 8#16) (idleRamp 3 2) = .next t) ∧ ((0#16).toNat % 8 = 0 ∧ (8#16).toNat % 8 = 0) ∧
    ∃ t, exec (.encode 0#16 8#16) (idleRamp 3 2) = .next t :=
  ⟨rampTable_inv 3 2 (by omega) (by omega), ⟨_, rfl⟩, ⟨_, rfl⟩, ⟨rfl, rfl⟩, ⟨_, rfl⟩⟩

theorem witness_CommandFrames :
    State.reset.status.busy = false ∧ State.reset.pos = ⟨0#13, 0#13, 0#3, 0#3⟩ ∧
    (∃ t, exec (.plki (rampColor 2)) (idleRamp 3 3) = .next t) ∧
    (∀ slot u, lookupOrInsert (idleRamp 3 3).table (rampColor 2) ≠ .inserted slot u) ∧
    (∃ t, exec .pser (idleRamp 3 3) = .next t ∧ 2 * (idleRamp 3 3).table.cap.toNat ≤ 6) :=
  ⟨rfl, rfl, ⟨_, rfl⟩, (fun slot u h => by cases h), ⟨_, rfl, by decide⟩⟩

theorem witness_LittleEndianWrites :
    65535 < 2 ^ 16 ∧ Memory.wf (rampStore (BitVec.ofNat 8) 0 3) = true ∧ (0x7FFF#16).toNat < 32768 ∧ 4 ≠ 5 ∧ 4 ≠ 5 + 1 := by
  decide

/-- The last readable byte of each space. -/
theorem witness_HostReadsOnlyValidBytes :
    hostMemRead .out 255 1 doneRamp = some 255 ∧ hostMemRead .pbuf 511 1 doneRamp = some 0 ∧
    BlockInv doneRamp ∧ doneRamp.status.busy = false ∧ (doneRamp.status.ovalid = true ∧ 255 < doneRamp.ocnt.toNat) ∧
    (doneRamp.status.pvalid = true ∧ 511 < doneRamp.plen.toNat) :=
  ⟨by decide +kernel, by decide +kernel, doneRamp_inv, rfl, by decide, by decide⟩

theorem witness_PseudoInstructionExpansions :
    (∃ t, exec (.encode 0#16 8#16) State.reset = .next t ∧ t.status.err = .ok) ∧
    ∃ t, exec (.encode 10#16 8#16) State.reset = .next t ∧ t.status.err ≠ .ok :=
  ⟨⟨_, rfl, rfl⟩, ⟨_, rfl, by decide⟩⟩

end Sys2Proof.Machine
end

section
/-! The rules of the palette table: construction and insertion keep the table invariant, and what R33 gives of a table that
meets it (distinct entries, their number). -/

namespace Sys2Proof.Machine

/-- An empty table meets the invariant: neither map lists anything. -/
theorem construct_tableInv (cap : Capacity) (hcap : cap.toNat ≤ 256) : TableInv (construct cap) where
  nextFree_le_cap := Nat.zero_le _
  cap_le := hcap
  fwd_wf := rfl
  rev_wf := rfl
  fwd_key := fun _ _ h => by simp at h
  rev_listed := fun i => by simp
  rev_color := fun _ _ h => by simp at h
  inverse := fun _ _ slot => by simp

/-- The slot of a colour is allocated. -/
theorem TableInv.slot_lt {t : PaletteTable} (ht : TableInv t) {c : TrueColor} {slot : Slot}
    (h : storeRead t.fwd (quantize c).toNat = some slot) : slot.toNat < t.nextFree.toNat :=
  ((ht.inverse _ (quantize_lt c) slot).1 h).1

/-- Inserting a new colour keeps R33: no colour had the slot `NEXT_FREE`, and no slot had the colour. -/
theorem insertColor_inverse {t : PaletteTable} (ht : TableInv t) {c : TrueColor}
    (hnew : storeRead t.fwd (quantize c).toNat = none) (hne : t.nextFree ≠ t.cap) (hc : HardwareColor)
    (hlt : hc.toNat < 32768) (slot : Slot) :
    storeRead (insertColor t (quantize c)).fwd hc.toNat = some slot ↔
      slot.toNat < t.nextFree.toNat + 1 ∧ storeRead (insertColor t (quantize c)).rev slot.toNat = some hc := by
  have hslot := nextFree_slot t ht hne
  rw [insertColor_fwd, insertColor_rev]
  by_cases hq : hc = quantize c
  · subst hq
    have hfree : ¬ (slot.toNat < t.nextFree.toNat ∧ storeRead t.rev slot.toNat = some (quantize c)) := fun h => by
      rw [(ht.inverse _ hlt slot).2 h] at hnew
      cases hnew
    by_cases hs : slot.toNat = t.nextFree.toNat
    · have hsl : t.nextFree.setWidth 8 = slot := BitVec.eq_of_toNat_eq (hslot.trans hs.symm)
      simp [hs, hsl]
    · have hsl : t.nextFree.setWidth 8 ≠ slot := fun e => hs (e ▸ hslot)
      simp only [if_true, if_neg hs, Option.some.injEq, hsl, false_iff]
      exact fun h => hfree ⟨by omega, h.2⟩
  · have hqn : hc.toNat ≠ (quantize c).toNat := fun e => hq (BitVec.eq_of_toNat_eq e)
    rw [if_neg hqn, ht.inverse hc hlt slot]
    by_cases hs : slot.toNat = t.nextFree.toNat
    · simp [hs, Ne.symm hq]
    · rw [if_neg hs]
      exact and_congr_left fun _ => by omega

/-- Inserting a new colour into a table that is not full keeps the invariant (R124, R129). -/
theorem insertColor_tableInv {t : PaletteTable} (ht : TableInv t) {c : TrueColor}
    (hnew : storeRead t.fwd (quantize c).toNat = none) (hne : t.nextFree ≠ t.cap) :
    TableInv (insertColor t (quantize c)) := by
  obtain ⟨hsucc, hlt⟩ := nextFree_succ t ht hne
  obtain ⟨hfwd, hrev⟩ := insertColor_wf t (quantize c) ht.fwd_wf ht.rev_wf
  refine ⟨?_, ht.cap_le, hfwd, hrev, ?_, ?_, ?_, ?_⟩
  · rw [insertColor_nextFree, insertColor_cap, hsucc]
    exact hlt
  · intro k slot h
    rw [insertColor_fwd] at h
    split at h
    · subst_vars; exact quantize_lt c
    · exact ht.fwd_key k slot h
  · intro i
    rw [insertColor_rev, insertColor_nextFree, hsucc]
    split
    · simp; omega
    · rw [ht.rev_listed]; omega
  · intro i hc h
    rw [insertColor_rev] at h
    split at h
    · cases h; exact quantize_lt c
    · exact ht.rev_color i hc h
  · intro hc hlt slot
    rw [insertColor_nextFree, hsucc]
    exact insertColor_inverse ht hnew hne hc hlt slot

/-- A lookup that inserts keeps the invariant and `CAP`, and gives the slot it allocates. -/
theorem lookupOrInsert_inserted {t t' : PaletteTable} (ht : TableInv t) {c : TrueColor} {slot : Slot}
    (h : lookupOrInsert t c = .inserted slot t') :
    TableInv t' ∧ t'.cap = t.cap ∧ t'.nextFree.toNat = t.nextFree.toNat + 1 ∧ slot.toNat = t.nextFree.toNat := by
  rcases lookupOrInsert_cases t c with ⟨_, _, e⟩ | ⟨_, _, e⟩ | ⟨hnew, hne, e⟩ <;> rw [e] at h <;> cases h
  exact ⟨insertColor_tableInv ht hnew hne, rfl, (nextFree_succ t ht hne).1, nextFree_slot t ht hne⟩

/-- A lookup that hits gives an allocated slot. -/
theorem lookupOrInsert_hit {t : PaletteTable} (ht : TableInv t) {c : TrueColor} {slot : Slot}
    (h : lookupOrInsert t c = .hit slot) : slot.toNat < t.nextFree.toNat := by
  rcases lookupOrInsert_cases t c with ⟨_, hf, e⟩ | ⟨_, _, e⟩ | ⟨_, _, e⟩ <;> rw [e] at h <;> cases h
  exact ht.slot_lt hf

/-- The number of an allocated slot fits a `Slot` (R34, R82). -/
theorem TableInv.ofNat_slot_toNat {t : PaletteTable} (ht : TableInv t) {i : Nat} (hi : i < t.nextFree.toNat) :
    (BitVec.ofNat 8 i).toNat = i := by
  have hn := ht.nextFree_le_cap
  have hcap := ht.cap_le
  rw [BitVec.toNat_ofNat, Nat.mod_eq_of_lt (by omega)]

/-- The allocated entries of `REV` are pairwise distinct. -/
theorem TableInv.rev_injective {t : PaletteTable} (ht : TableInv t) {i j : Nat} {hc : HardwareColor}
    (hi : storeRead t.rev i = some hc) (hj : storeRead t.rev j = some hc) : i = j := by
  have hlt : ∀ k, storeRead t.rev k = some hc → k < t.nextFree.toNat := fun k hk => (ht.rev_listed k).1 (by rw [hk]; rfl)
  have hfwd : ∀ k, storeRead t.rev k = some hc → storeRead t.fwd hc.toNat = some (BitVec.ofNat 8 k) := fun k hk => by
    refine (ht.inverse hc (ht.rev_color k hc hk) _).2 ?_
    rw [ht.ofNat_slot_toNat (hlt k hk)]
    exact ⟨hlt k hk, hk⟩
  have heq : BitVec.ofNat 8 i = BitVec.ofNat 8 j := Option.some.inj ((hfwd i hi).symm.trans (hfwd j hj))
  rw [← ht.ofNat_slot_toNat (hlt i hi), heq, ht.ofNat_slot_toNat (hlt j hj)]

/-- In a space in canonical form the entries are exactly what the keys read as. -/
theorem mem_iff_storeRead {α : Type} {lo : Nat} {m : Store α} (hm : storeWfFrom lo m = true) (k : Nat) (v : α) :
    (k, v) ∈ m ↔ storeRead m k = some v := by
  induction m generalizing lo with
  | nil => simp
  | cons e m ih =>
    obtain ⟨k', v'⟩ := e
    simp only [storeWfFrom, Bool.and_eq_true, decide_eq_true_eq] at hm
    rw [List.mem_cons, ih hm.2, storeRead]
    by_cases hk : k = k'
    · subst hk
      simp [storeWfFrom_read_none m hm.2 (Nat.lt_succ_self k), eq_comm]
    · simp [hk]

/-- A space in canonical form lists no entry twice. -/
theorem storeWfFrom_nodup {α : Type} {lo : Nat} {m : Store α} (hm : storeWfFrom lo m = true) : m.Nodup := by
  induction m generalizing lo with
  | nil => exact List.nodup_nil
  | cons e m ih =>
    obtain ⟨k, v⟩ := e
    simp only [storeWfFrom, Bool.and_eq_true, decide_eq_true_eq] at hm
    refine List.nodup_cons.2 ⟨fun hmem => ?_, ih hm.2⟩
    rw [mem_iff_storeRead hm.2, storeWfFrom_read_none m hm.2 (Nat.lt_succ_self k)] at hmem
    cases hmem

/-- An entry of `FWD` is the entry of `REV` read backwards. -/
theorem TableInv.mem_fwd_iff {t : PaletteTable} (ht : TableInv t) (k : Nat) (slot : Slot) :
    (k, slot) ∈ t.fwd ↔
      k < 32768 ∧ slot.toNat < t.nextFree.toNat ∧ storeRead t.rev slot.toNat = some (BitVec.ofNat 16 k) := by
  rw [mem_iff_storeRead ht.fwd_wf]
  have hinv : k < 32768 → (storeRead t.fwd k = some slot ↔
      slot.toNat < t.nextFree.toNat ∧ storeRead t.rev slot.toNat = some (BitVec.ofNat 16 k)) := fun hk => by
    have hk16 : (BitVec.ofNat 16 k).toNat = k := by rw [BitVec.toNat_ofNat]; omega
    have := ht.inverse (BitVec.ofNat 16 k) (by rwa [hk16]) slot
    rwa [hk16] at this
  exact ⟨fun h => ⟨ht.fwd_key k slot h, (hinv (ht.fwd_key k slot h)).1 h⟩, fun h => (hinv h.1).2 h.2⟩

/-- The slots that `FWD` lists are pairwise distinct. -/
theorem TableInv.fwd_slots_nodup {t : PaletteTable} (ht : TableInv t) :
    (t.fwd.map fun e => e.2.toNat).Nodup := by
  refine (storeWfFrom_nodup ht.fwd_wf).map_on ?_
  rintro ⟨k, slot⟩ h ⟨k', slot'⟩ h' heq
  obtain rfl : slot = slot' := BitVec.eq_of_toNat_eq heq
  obtain ⟨hk, -, hr⟩ := (ht.mem_fwd_iff k slot).1 h
  obtain ⟨hk', -, hr'⟩ := (ht.mem_fwd_iff k' slot).1 h'
  have := congrArg BitVec.toNat (Option.some.inj (hr.symm.trans hr'))
  simp only [BitVec.toNat_ofNat] at this
  rw [show k = k' by omega]

/-- The slots that `FWD` lists are the allocated ones. -/
theorem TableInv.mem_fwd_slots {t : PaletteTable} (ht : TableInv t) (i : Nat) :
    (i ∈ t.fwd.map fun e => e.2.toNat) ↔ i < t.nextFree.toNat := by
  simp only [List.mem_map, Prod.exists]
  constructor
  · rintro ⟨k, slot, h, rfl⟩
    exact ((ht.mem_fwd_iff k slot).1 h).2.1
  · intro hi
    obtain ⟨hc, hr⟩ := Option.isSome_iff_exists.1 ((ht.rev_listed i).2 hi)
    have hi8 := ht.ofNat_slot_toNat hi
    refine ⟨hc.toNat, BitVec.ofNat 8 i, (ht.mem_fwd_iff _ _).2 ⟨ht.rev_color i hc hr, ?_, ?_⟩, hi8⟩
    · rwa [hi8]
    · rw [hi8, hr, BitVec.ofNat_toNat, BitVec.setWidth_eq]

/-- As many colours have a slot as slots are allocated. -/
theorem TableInv.fwd_length {t : PaletteTable} (ht : TableInv t) : t.fwd.length = t.nextFree.toNat := by
  have hperm : (t.fwd.map fun e => e.2.toNat).Perm (List.range t.nextFree.toNat) :=
    (List.perm_ext_iff_of_nodup ht.fwd_slots_nodup List.nodup_range).2 fun i => by
      rw [ht.mem_fwd_slots, List.mem_range]
  simpa using hperm.length_eq

end Sys2Proof.Machine
end

section
/-! What every step does, as the moves it is made of: a property of states that each move keeps is kept by every step at both
levels. With it, every step keeps the table invariant. -/

namespace Sys2Proof.Machine

/-- A PNEW word that decodes has a legal capacity (R86). -/
theorem decodePnew_cap_le {arg : BitVec 32} {cap : Capacity} (h : decodePnew arg = .command (.pnew cap)) :
    cap.toNat ≤ 256 := by
  simp only [decodePnew] at h
  split at h
  · split at h
    · cases h; assumption
    · cases h
  · cases h

/-- The decoder answers legal commands only. -/
theorem decode_wf {cw : CommandWord} {i : Instr} (h : decode cw = .command i) : i.wf = true := by
  cases i with
  | pnew cap =>
    simp only [decode, decodePser, decodeEncode] at h
    rw [Instr.wf_pnew, decide_eq_true_eq]
    split_ifs at h
    · cases h
    · exact decodePnew_cap_le h
    all_goals cases h
  | _ => rfl

/-- A property of states that the moves of a step keep: the reset input; in phase IDLE the port moving on, the illegal word,
a legal command at the command level and an ENCODE's start step; in phase RUN the sequencer's step. -/
structure KeptByMoves (P : State → Prop) : Prop where
  reset : ∀ s, P s → P (applyReset s)
  taken : ∀ s r rest, s.status.busy = false → P s → P (taken s r rest)
  illegal : ∀ s, s.status.busy = false → P s → P (raise .illegalCommand s)
  command : ∀ i s t, i.wf = true → s.status.busy = false → P s → exec i s = .next t → P t
  start : ∀ w h s t, s.status.busy = false → P s → encodeStart w h s = .next t → P t
  run : ∀ s t, s.status.busy = true → P s → sequencerStep s = .next t → P t

/-- A block step keeps what the moves keep, if an accepted legal command does. -/
theorem KeptByMoves.blockStep {P : State → Prop} (hP : KeptByMoves P)
    {run : Instr → State → Host.Outcome State Fault Refusal}
    (hrun : ∀ i s t, i.wf = true → s.status.busy = false → P s → run i s = .next t → P t) {s t : State} (hs : P s)
    (h : blockStep run sequencerStep s = .next t) : P t := by
  rcases blockStep_cases run sequencerStep s with
    ⟨_, e⟩ | ⟨_, hb, e⟩ | ⟨_, _, _, e⟩ | ⟨r, rest, hacc, ⟨i, hd, e⟩ | ⟨why, _, e⟩⟩ <;> rw [e] at h
  case inl => cases h; exact hP.reset s hs
  case inr.inl => exact hP.run s t hb hs h
  case inr.inr.inl => cases h; exact hs
  case inr.inr.inr.inl => exact hrun i (Machine.taken s r rest) t (decode_wf hd) hacc.idle (hP.taken s r rest hacc.idle hs) h
  case inr.inr.inr.inr => cases h; exact hP.illegal _ hacc.idle (hP.taken s r rest hacc.idle hs)

/-- Every step at either level keeps what the moves keep. -/
theorem KeptByMoves.step {P : State → Prop} (hP : KeptByMoves P) {s t : State} (hs : P s)
    (h : step s = .next t ∨ fineStep s = .next t) : P t := by
  rcases h with h | h
  · exact hP.blockStep hP.command hs h
  · refine hP.blockStep (fun i u v hwf hb hu hv => ?_) hs h
    cases i with
    | encode w h => exact hP.start w h u v hb hu hv
    | _ => exact hP.command _ u v hwf hb hu hv

/-- What PLKI does (R125): a hit, an insertion, or CapacityExceeded. -/
theorem execPlki_cases (c : TrueColor) (s : State) :
    (∃ slot, lookupOrInsert s.table c = .hit slot ∧
      execPlki c s = .next (respond .ok (slot.setWidth 16) { s with result := slot.setWidth 16 })) ∨
    (∃ slot t, lookupOrInsert s.table c = .inserted slot t ∧
      execPlki c s = .next
        (respond .ok (slot.setWidth 16) (dropPalette { s with table := t, result := slot.setWidth 16 }))) ∨
    (lookupOrInsert s.table c = .capacityExceeded ∧ execPlki c s = .next (raise .capacityExceeded s)) := by
  simp only [execPlki]
  cases hl : lookupOrInsert s.table c with
  | hit slot => exact .inl ⟨slot, rfl, rfl⟩
  | inserted slot t => exact .inr (.inl ⟨slot, t, rfl, rfl⟩)
  | capacityExceeded => exact .inr (.inr ⟨rfl, rfl⟩)

/-- What the start step of an ENCODE does: DimensionError, or the start of the job (R151, R152). -/
theorem encodeStart_cases (w h : Dim) (s : State) :
    (dimensionsOk w h = false ∧ encodeStart w h s = .next (raise .dimensionError s)) ∨
    (dimensionsOk w h = true ∧
      encodeStart w h s = .next (setBusy true { startJob w h s with pos := Pos.zero })) := by
  cases hd : dimensionsOk w h with
  | false => exact .inl ⟨rfl, by simp [encodeStart, hd]⟩
  | true => exact .inr ⟨rfl, by simp [encodeStart, hd]⟩

/-- Visiting a pixel appends an allocated slot, in the table as it was or with one colour more. -/
theorem visitPixel_appended {x y : Nat} {s s' : State} (ht : TableInv s.table) (h : visitPixel x y s = .appended s') :
    ∃ slot t, s' = appendIndex slot { s with table := t } ∧ TableInv t ∧ t.cap = s.table.cap ∧
      s.table.nextFree.toNat ≤ t.nextFree.toNat ∧ slot.toNat < t.nextFree.toNat := by
  rcases visitPixel_cases x y s with ⟨_, hv⟩ | ⟨c, _, ⟨slot, hl, hv⟩ | ⟨slot, t, hl, hv⟩ | ⟨_, hv⟩⟩ <;> rw [hv] at h <;>
    cases h
  case inr.inl => exact ⟨slot, s.table, rfl, ht, rfl, Nat.le_refl _, lookupOrInsert_hit ht hl⟩
  case inr.inr.inl =>
    obtain ⟨hinv, hcap, hnext, hslot⟩ := lookupOrInsert_inserted ht hl
    exact ⟨slot, t, rfl, hinv, hcap, by omega, by omega⟩

theorem visitPixel_tableInv {x y : Nat} {s s' : State} (ht : TableInv s.table) (h : visitPixel x y s = .appended s') :
    TableInv s'.table := by
  obtain ⟨slot, t, rfl, hinv, -⟩ := visitPixel_appended ht h
  exact hinv

/-- The table of an ENCODE's start. -/
theorem modeTable_tableInv : TableInv (construct modeCapacity) := construct_tableInv _ (Nat.le_refl 256)

theorem exec_tableInv {i : Instr} {s t : State} (hwf : i.wf = true) (ht : TableInv s.table) (h : exec i s = .next t) :
    TableInv t.table := by
  cases i with
  | quant c => cases h; exact ht
  | pnew cap => cases h; exact construct_tableInv cap (by simpa using hwf)
  | plki c =>
    rcases execPlki_cases c s with ⟨slot, _, e⟩ | ⟨slot, u, hl, e⟩ | ⟨_, e⟩ <;> cases e.symm.trans h
    · exact ht
    · exact (lookupOrInsert_inserted ht hl).1
    · exact ht
  | pser => cases h; exact ht
  | encode w h' =>
    have hwalk := (walkPixels_induction (P := fun u => TableInv u.table) (fun _ _ _ _ => visitPixel_tableInv)
      (walkOrder w h') (startJob w h' s) modeTable_tableInv).1
    rcases execEncode_cases w h' s with ⟨_, e⟩ | ⟨_, ⟨u, hu, e⟩ | ⟨u, _, e⟩ | ⟨x, y, _, e⟩⟩ <;> cases e.symm.trans h
    · exact ht
    · exact hwalk u hu
    · exact modeTable_tableInv

theorem sequencerStep_tableInv {s t : State} (ht : TableInv s.table) (h : sequencerStep s = .next t) :
    TableInv t.table := by
  rcases sequencerStep_cases s with ⟨_, ⟨u, hu, e⟩ | ⟨_, e⟩ | ⟨_, e⟩⟩ | ⟨_, e⟩ | ⟨_, e⟩ <;> cases e.symm.trans h
  · exact (visitPixel_tableInv ht hu : TableInv u.table)
  · exact modeTable_tableInv
  · exact ht

/-- Every move keeps the table invariant. -/
theorem tableInv_keptByMoves : KeptByMoves fun s => TableInv s.table where
  reset := fun _ _ => modeTable_tableInv
  taken := fun _ _ _ _ ht => ht
  illegal := fun _ _ ht => ht
  command := fun _ _ _ hwf _ ht h => exec_tableInv hwf ht h
  start := fun w h s t _ ht he => by
    rcases encodeStart_cases w h s with ⟨_, e⟩ | ⟨_, e⟩ <;> cases e.symm.trans he
    · exact ht
    · exact modeTable_tableInv
  run := fun _ _ _ ht h => sequencerStep_tableInv ht h

/-- Settles O46: every move of a step constructs an empty table, leaves the table, or inserts a new colour at `NEXT_FREE`. -/
theorem stepKeepsTheTableInvariant : Obligations.StepKeepsTheTableInvariant := by
  unfold Obligations.StepKeepsTheTableInvariant
  exact ⟨modeTable_tableInv, fun _ _ ht h => tableInv_keptByMoves.step ht h,
    fun _ ht => ⟨fun _ _ _ => ht.rev_injective, ht.fwd_length⟩⟩

end Sys2Proof.Machine
end

section
/-! The serialization byte by byte (`41_palette_table.md` R130), and the position of the tile walk as one mixed-radix number
(`42_tile_encoder.md` R155). -/

namespace Sys2Proof.Machine

/-- Byte `d` of a value is the field `v[8d+7:8d]`. -/
theorem ofNat_div_eq_extract {n : Nat} (v : BitVec n) (d : Nat) :
    BitVec.ofNat 8 (v.toNat / 256 ^ d) = v.extractLsb' (8 * d) 8 := by
  refine BitVec.eq_of_toNat_eq ?_
  rw [extract_toNat, BitVec.toNat_ofNat, Nat.pow_mul]

/-- 16-bit values written at the even offsets below `2n` are read back low byte first. -/
theorem storeRead_foldl_memWrite (value : Nat → HardwareColor) (n j : Nat) :
    storeRead ((List.range n).foldl (fun m i => memWrite m (2 * i) 2 (value i).toNat) []) j =
      if j < 2 * n then some ((value (j / 2)).extractLsb' (8 * (j % 2)) 8) else none := by
  induction n with
  | zero => simp
  | succ n ih =>
    rw [List.range_succ, List.foldl_append, List.foldl_cons, List.foldl_nil, storeRead_memWrite, ih]
    by_cases hj : 2 * n ≤ j ∧ j < 2 * n + 2
    · rw [if_pos hj, if_pos (by omega), ofNat_div_eq_extract, show j / 2 = n by omega, show j % 2 = j - 2 * n by omega]
    · rw [if_neg hj]
      exact if_congr (by omega) rfl rfl

/-- Every byte of a serialization (R130). -/
theorem storeRead_serialize (t : PaletteTable) (j : Nat) :
    storeRead (serialize t) j =
      if j < 2 * t.cap.toNat then some ((slotValue t (j / 2)).extractLsb' (8 * (j % 2)) 8) else none :=
  storeRead_foldl_memWrite (slotValue t) t.cap.toNat j

/-- The two bytes of slot `i`, low byte first. -/
theorem storeRead_serialize_slot (t : PaletteTable) {i : Nat} (hi : i < t.cap.toNat) :
    storeRead (serialize t) (2 * i) = some ((slotValue t i).extractLsb' 0 8) ∧
    storeRead (serialize t) (2 * i + 1) = some ((slotValue t i).extractLsb' 8 8) := by
  rw [storeRead_serialize, storeRead_serialize, if_pos (by omega), if_pos (by omega), show (2 * i) / 2 = i by omega,
    show (2 * i) % 2 = 0 by omega, show (2 * i + 1) / 2 = i by omega, show (2 * i + 1) % 2 = 1 by omega]
  exact ⟨rfl, rfl⟩

/-- `PLEN` holds `2 × CAP` without wrapping. -/
theorem serialize_plen_toNat (cap : Capacity) : (BitVec.ofNat 10 (2 * cap.toNat)).toNat = 2 * cap.toNat := by
  rw [BitVec.toNat_ofNat]
  omega

/-- The tile `(trow, tcol)` is one of the `TW × TH` tiles. -/
theorem tile_lt {trow tcol tw th : Nat} (hr : trow < th) (hc : tcol < tw) : trow * tw + tcol < tw * th :=
  calc trow * tw + tcol < trow * tw + tw := by omega
    _ = (trow + 1) * tw := (Nat.succ_mul trow tw).symm
    _ ≤ th * tw := Nat.mul_le_mul_right tw hr
    _ = tw * th := Nat.mul_comm th tw

/-- `advance` adds one to the position's number, wrapping to zero after the last pixel, and stays among the tiles (R155). -/
theorem advance_posValue (w h : Dim) (p : Pos) (hr : p.trow.toNat < tileCount h) (hc : p.tcol.toNat < tileCount w) :
    posValue w (advance w h p) = (posValue w p + 1) % (64 * (tileCount w * tileCount h)) ∧
    (advance w h p).trow.toNat < tileCount h ∧ (advance w h p).tcol.toNat < tileCount w := by
  have htile := tile_lt hr hc
  have hw : tileCount w < 2 ^ 13 := Nat.div_lt_of_lt_mul w.isLt
  have hh : tileCount h < 2 ^ 13 := Nat.div_lt_of_lt_mul h.isLt
  have hscol := p.scol.isLt
  have hsrow := p.srow.isLt
  by_cases h1 : p.scol.toNat < 7
  · have e : (p.scol + 1#3).toNat = p.scol.toNat + 1 :=
      BitVec.toNat_add_of_lt (show p.scol.toNat + 1 < 2 ^ 3 by omega)
    rw [advance, if_pos h1]
    refine ⟨?_, hr, hc⟩
    rw [Nat.mod_eq_of_lt] <;> simp only [posValue, e] <;> omega
  by_cases h2 : p.srow.toNat < 7
  · have e : (p.srow + 1#3).toNat = p.srow.toNat + 1 :=
      BitVec.toNat_add_of_lt (show p.srow.toNat + 1 < 2 ^ 3 by omega)
    rw [advance, if_neg h1, if_pos h2]
    refine ⟨?_, hr, hc⟩
    rw [Nat.mod_eq_of_lt] <;> simp only [posValue, e, BitVec.toNat_zero] <;> omega
  by_cases h3 : p.tcol.toNat + 1 < tileCount w
  · have e : (p.tcol + 1#13).toNat = p.tcol.toNat + 1 :=
      BitVec.toNat_add_of_lt (show p.tcol.toNat + 1 < 2 ^ 13 by omega)
    have hnext := tile_lt hr h3
    rw [advance, if_neg h1, if_neg h2, if_pos h3]
    refine ⟨?_, hr, e ▸ h3⟩
    rw [Nat.mod_eq_of_lt] <;> simp only [posValue, e, BitVec.toNat_zero] <;> omega
  have hrow : p.trow.toNat * tileCount w + p.tcol.toNat + 1 = (p.trow.toNat + 1) * tileCount w := by
    rw [Nat.succ_mul]; omega
  by_cases h4 : p.trow.toNat + 1 < tileCount h
  · have e : (p.trow + 1#13).toNat = p.trow.toNat + 1 :=
      BitVec.toNat_add_of_lt (show p.trow.toNat + 1 < 2 ^ 13 by omega)
    have hnext := tile_lt h4 (Nat.zero_lt_of_lt hc)
    rw [advance, if_neg h1, if_neg h2, if_neg h3, if_pos h4]
    refine ⟨?_, e ▸ h4, Nat.zero_lt_of_lt hc⟩
    rw [Nat.mod_eq_of_lt] <;> simp only [posValue, e, BitVec.toNat_zero] <;> omega
  · have hlast : p.trow.toNat + 1 = tileCount h := by omega
    rw [hlast, Nat.mul_comm (tileCount h)] at hrow
    rw [advance, if_neg h1, if_neg h2, if_neg h3, if_neg h4]
    refine ⟨?_, Nat.zero_lt_of_lt hr, Nat.zero_lt_of_lt hc⟩
    have hend : posValue w p + 1 = 64 * (tileCount w * tileCount h) := by simp only [posValue]; omega
    rw [hend, Nat.mod_self]
    simp [posValue, Pos.zero]

/-- A position is at rank `k` when its number is `k` and its tile column is one of the grid's. -/
theorem posAtRank_iff {w : Dim} (hw : 0 < tileCount w) (k : Nat) (p : Pos) :
    PosAtRank w k p ↔ p.tcol.toNat < tileCount w ∧ posValue w p = k := by
  have hscol := p.scol.isLt
  have hsrow := p.srow.isLt
  have hdivmod := Nat.div_add_mod (k / 64) (tileCount w)
  constructor
  · rintro ⟨hr, hc, hsr, hsc⟩
    refine ⟨hc ▸ Nat.mod_lt _ hw, ?_⟩
    rw [posValue, hr, hc, hsr, hsc, Nat.mul_comm (k / 64 / tileCount w), hdivmod]
    omega
  · rintro ⟨hc, rfl⟩
    have htile : posValue w p / 64 = p.tcol.toNat + tileCount w * p.trow.toNat := by
      simp only [posValue]
      rw [Nat.mul_comm (tileCount w)]
      omega
    constructor
    · rw [htile, Nat.add_mul_div_left _ _ hw, Nat.div_eq_of_lt hc, Nat.zero_add]
    · rw [htile, Nat.add_mul_mod_self_left, Nat.mod_eq_of_lt hc]
    · simp only [posValue]; omega
    · simp only [posValue]; omega

/-- Among the tiles, only `(0,0,0,0)` has the number 0. -/
theorem eq_zero_of_posValue {w : Dim} (hw : 0 < tileCount w) {p : Pos} (h : posValue w p = 0) : p = Pos.zero := by
  have hrow : p.trow.toNat * tileCount w = 0 := by simp only [posValue] at h; omega
  have htrow := (Nat.mul_eq_zero.1 hrow).resolve_right (Nat.ne_of_gt hw)
  obtain ⟨trow, tcol, srow, scol⟩ := p
  simp only [posValue] at h htrow
  rw [Pos.zero, Pos.mk.injEq]
  refine ⟨BitVec.eq_of_toNat_eq htrow, BitVec.eq_of_toNat_eq ?_, BitVec.eq_of_toNat_eq ?_, BitVec.eq_of_toNat_eq ?_⟩ <;>
    simp only [BitVec.toNat_zero] <;> omega

/-- A grid whose dimensions are multiples of 8 has 64 pixels a tile (R153). -/
theorem pixels_eq_tiles {w h : Dim} (hw : w.toNat % 8 = 0) (hh : h.toNat % 8 = 0) :
    w.toNat * h.toNat = 64 * (tileCount w * tileCount h) := by
  have ew : w.toNat = 8 * tileCount w := (Nat.mul_div_cancel' (Nat.dvd_of_mod_eq_zero hw)).symm
  have eh : h.toNat = 8 * tileCount h := (Nat.mul_div_cancel' (Nat.dvd_of_mod_eq_zero hh)).symm
  rw [ew, eh]
  ring

/-- The loop nest of R150 visits every pixel of the grid once. -/
theorem walkOrder_length {w h : Dim} (hw : w.toNat % 8 = 0) (hh : h.toNat % 8 = 0) :
    (walkOrder w h).length = w.toNat * h.toNat := by
  simp only [walkOrder, tilePositions, List.length_flatMap, List.length_map, List.length_range, List.map_const',
    List.sum_replicate, Config.ctq_tile, smul_eq_mul]
  rw [pixels_eq_tiles hw hh]
  ring

/-- From a rank inside the grid, `advance` reaches the next rank, or zero after the last pixel (R155, R160). -/
theorem advance_posAtRank {w h : Dim} (hw : w.toNat % 8 = 0) (hh : h.toNat % 8 = 0) {k : Nat} {p : Pos}
    (hk : k < w.toNat * h.toNat) (hp : PosAtRank w k p) :
    (k + 1 < w.toNat * h.toNat → PosAtRank w (k + 1) (advance w h p)) ∧
    (k + 1 = w.toNat * h.toNat → advance w h p = Pos.zero) := by
  rw [pixels_eq_tiles hw hh] at hk ⊢
  have htw : 0 < tileCount w := Nat.pos_of_ne_zero fun e => by simp [e] at hk
  have hrow : p.trow.toNat < tileCount h := by
    rw [hp.trow]
    exact Nat.div_lt_of_lt_mul (Nat.div_lt_of_lt_mul hk)
  obtain ⟨hcol, hval⟩ := (posAtRank_iff htw k p).1 hp
  obtain ⟨hadv, -, hcol'⟩ := advance_posValue w h p hrow hcol
  rw [hval] at hadv
  constructor
  · intro hlt
    exact (posAtRank_iff htw _ _).2 ⟨hcol', by rw [hadv, Nat.mod_eq_of_lt hlt]⟩
  · intro hend
    exact eq_zero_of_posValue htw (by rw [hadv, hend, Nat.mod_self])

end Sys2Proof.Machine
end

section
/-! The invariant of the block at reset and through every step (`10_state.md` R33 to R36; phase RUN: `42_tile_encoder.md`
section 2). -/

namespace Sys2Proof.Machine

/-! ### What the invariants need of a state -/

theorem StreamWf.of_empty {s : State} (hocnt : s.ocnt = 0#32) (hout : s.out = []) (hw : s.w.toNat % 8 = 0)
    (hh : s.h.toNat % 8 = 0) : StreamWf s where
  out_wf := by rw [hout]; rfl
  out_listed := fun k => by simp [hout, hocnt]
  out_slot := fun k b e => by simp [hout] at e
  w_aligned := hw
  h_aligned := hh

theorem StreamInv.of_empty {s : State} (hpos : s.pos = Pos.zero) (hocnt : s.ocnt = 0#32) (hout : s.out = [])
    (hw : s.w = 0#16) (hh : s.h = 0#16) (hov : s.status.ovalid = false) : StreamInv s where
  pos_zero := hpos
  stream := .of_empty hocnt hout (by rw [hw]; rfl) (by rw [hh]; rfl)
  valid := fun e => by rw [hov] at e; cases e
  invalid := fun _ => ⟨hocnt, hw, hh⟩

theorem PaletteInv.of_empty {s : State} (hplen : s.plen = 0#10) (hpbuf : s.pbuf = []) (hpv : s.status.pvalid = false) :
    PaletteInv s where
  pbuf_wf := by rw [hpbuf]; rfl
  pbuf_listed := fun j => by simp [hpbuf, hplen]
  valid := fun e => by rw [hpv] at e; cases e
  invalid := fun _ => hplen

theorem BlockInv.of_idle {s : State} (hb : s.status.busy = false) (ht : TableInv s.table) (hs : StreamInv s)
    (hp : PaletteInv s) : BlockInv s :=
  ⟨ht, fun _ => ⟨hs, hp⟩, fun e => by rw [hb] at e; cases e⟩

theorem BlockInv.of_run {s : State} (hb : s.status.busy = true) (ht : TableInv s.table) (hr : RunInv s) : BlockInv s :=
  ⟨ht, fun e => (by rw [hb] at e; cases e), fun _ => hr⟩

/-- The stream is well formed whatever the rest of the state, in any table that has as many slots. -/
theorem StreamWf.mono {s s' : State} (hs : StreamWf s) (hout : s'.out = s.out) (hocnt : s'.ocnt = s.ocnt) (hw : s'.w = s.w)
    (hh : s'.h = s.h) (hn : s.table.nextFree.toNat ≤ s'.table.nextFree.toNat) : StreamWf s' where
  out_wf := hout ▸ hs.out_wf
  out_listed := fun k => by rw [hout, hocnt]; exact hs.out_listed k
  out_slot := fun k b e => (hs.out_slot k b (hout ▸ e)).trans_le hn
  w_aligned := hw ▸ hs.w_aligned
  h_aligned := hh ▸ hs.h_aligned

/-- The stream invariants speak of the table's capacity and slots, the dimensions, `POS`, `OCNT`, `OUT` and `OVALID` alone. -/
theorem StreamInv.frame {s : State} (hs : StreamInv s) {t : PaletteTable} (hcap : t.cap = s.table.cap)
    (hn : s.table.nextFree.toNat ≤ t.nextFree.toNat) {pbuf : Memory} {plen : BitVec 10} {result : BitVec 16}
    {err : ErrCode} {pvalid : Bool} {responses : List Response} :
    StreamInv { s with
      table := t, pbuf := pbuf, plen := plen, result := result
      status := { s.status with err := err, pvalid := pvalid }, responses := responses } where
  pos_zero := hs.pos_zero
  stream := hs.stream.mono rfl rfl rfl rfl hn
  valid := fun e => ⟨(hs.valid e).1, by rw [hcap]; exact (hs.valid e).2⟩
  invalid := hs.invalid

/-- The invariant of an idle block says nothing of `RESULT`, `ERR` and the host's side. -/
theorem BlockInv.frame {s : State} (hs : BlockInv s) (hb : s.status.busy = false) {result : BitVec 16} {err : ErrCode}
    {port : List Request} {grid : Grid} {responses : List Response} :
    BlockInv { s with
      result := result, status := { s.status with err := err }, port := port, grid := grid, responses := responses } := by
  obtain ⟨⟨hpos, hwf, hov, hnov⟩, ⟨hpw, hpl, hpv, hnpv⟩⟩ := hs.idle hb
  exact .of_idle hb hs.table ⟨hpos, hwf.mono rfl rfl rfl rfl (Nat.le_refl _), hov, hnov⟩ ⟨hpw, hpl, hpv, hnpv⟩

/-! ### Reset and the commands -/

theorem applyReset_blockInv (s : State) : BlockInv (applyReset s) :=
  .of_idle rfl modeTable_tableInv (.of_empty rfl rfl rfl rfl rfl rfl) (.of_empty rfl rfl rfl)

/-- TooManyColors leaves an idle block with nothing valid, whatever it was doing (R193). -/
theorem raise_tooManyColors_blockInv (s : State) : BlockInv (raise .tooManyColors s) :=
  .of_idle rfl modeTable_tableInv (.of_empty rfl rfl rfl rfl rfl rfl) (.of_empty rfl rfl rfl)

/-- The serialization of the current table meets the palette-buffer invariants (R36, R131). -/
theorem pser_paletteInv {s : State} (hpbuf : s.pbuf = serialize s.table)
    (hplen : s.plen = BitVec.ofNat 10 (2 * s.table.cap.toNat)) (hpv : s.status.pvalid = true) : PaletteInv s where
  pbuf_wf := hpbuf ▸ serialize_wf s.table
  pbuf_listed := fun j => by
    rw [hpbuf, hplen, serialize_plen_toNat, storeRead_serialize]
    split <;> simp [*]
  valid := fun _ => ⟨by rw [hplen, serialize_plen_toNat], fun i hi => by
    rw [hpbuf]; exact storeRead_serialize_slot s.table hi⟩
  invalid := fun e => by rw [hpv] at e; cases e

theorem execPnew_blockInv {cap : Capacity} {s t : State} (hcap : cap.toNat ≤ 256) (hb : s.status.busy = false)
    (hs : BlockInv s) (h : execPnew cap s = .next t) : BlockInv t := by
  cases h
  exact .of_idle hb (construct_tableInv cap hcap) (.of_empty (hs.idle hb).1.pos_zero rfl rfl rfl rfl rfl)
    (.of_empty rfl rfl rfl)

theorem execPlki_blockInv {c : TrueColor} {s t : State} (hb : s.status.busy = false) (hs : BlockInv s)
    (h : execPlki c s = .next t) : BlockInv t := by
  rcases execPlki_cases c s with ⟨slot, _, e⟩ | ⟨slot, u, hl, e⟩ | ⟨_, e⟩ <;> cases e.symm.trans h
  · exact hs.frame hb
  · obtain ⟨hu, hcap, hnext, -⟩ := lookupOrInsert_inserted hs.table hl
    exact .of_idle hb hu ((hs.idle hb).1.frame hcap (by omega)) (.of_empty rfl rfl rfl)
  · exact hs.frame hb

theorem execPser_blockInv {s t : State} (hb : s.status.busy = false) (hs : BlockInv s) (h : execPser s = .next t) :
    BlockInv t := by
  cases h
  exact .of_idle hb hs.table ((hs.idle hb).1.frame rfl (Nat.le_refl _)) (pser_paletteInv rfl rfl rfl)

/-! ### The tile walk, at both levels -/

/-- What each pixel of an ENCODE keeps, at either level. -/
structure JobInv (s : State) : Prop where
  table : TableInv s.table
  cap_eq : s.table.cap.toNat = 256
  stream : StreamWf s

theorem startJob_jobInv {w h : Dim} (hd : dimensionsOk w h = true) (s : State) : JobInv (startJob w h s) where
  table := modeTable_tableInv
  cap_eq := rfl
  stream := .of_empty rfl rfl ((dimensionsOk_iff w h).1 hd).1 ((dimensionsOk_iff w h).1 hd).2

/-- Appending an allocated slot keeps the stream well formed, while `OCNT` does not wrap. -/
theorem StreamWf.appendIndex {s : State} (hs : StreamWf s) {slot : Slot} (hslot : slot.toNat < s.table.nextFree.toNat)
    (hocnt : s.ocnt.toNat + 1 < 2 ^ 32) : StreamWf (appendIndex slot s) := by
  have hsucc : (s.ocnt + 1#32).toNat = s.ocnt.toNat + 1 := BitVec.toNat_add_of_lt hocnt
  have hread : ∀ k, storeRead (Machine.appendIndex slot s).out k =
      if k = s.ocnt.toNat then some slot else storeRead s.out k := fun k => by
    rw [appendIndex_out, memWrite_one, storeRead_write]
  refine ⟨memWrite_wf _ _ _ _ hs.out_wf, fun k => ?_, fun k b e => ?_, hs.w_aligned, hs.h_aligned⟩
  · rw [hread, appendIndex_ocnt, hsucc]
    split
    · simp; omega
    · rw [hs.out_listed]; omega
  · rw [hread] at e
    split at e
    · cases e; exact hslot
    · exact hs.out_slot k b e

theorem visitPixel_jobInv {x y : Nat} {s s' : State} (hs : JobInv s) (hocnt : s.ocnt.toNat + 1 < 2 ^ 32)
    (h : visitPixel x y s = .appended s') : JobInv s' ∧ s'.ocnt.toNat = s.ocnt.toNat + 1 := by
  obtain ⟨slot, t, rfl, ht, hcap, hn, hslot⟩ := visitPixel_appended hs.table h
  have hstream : StreamWf { s with table := t } := hs.stream.mono rfl rfl rfl rfl hn
  exact ⟨⟨ht, hcap ▸ hs.cap_eq, hstream.appendIndex hslot hocnt⟩, BitVec.toNat_add_of_lt hocnt⟩

/-- A walk that ends keeps what each pixel keeps, and counts its pixels in `OCNT`. -/
theorem walkPixels_jobInv (ps : List (Nat × Nat)) {s s' : State} (hs : JobInv s) (hocnt : s.ocnt.toNat + ps.length < 2 ^ 32)
    (h : walkPixels ps s = .finished s') : JobInv s' ∧ s'.ocnt.toNat = s.ocnt.toNat + ps.length := by
  induction ps generalizing s with
  | nil => cases h; exact ⟨hs, rfl⟩
  | cons p ps ih =>
    obtain ⟨x, y⟩ := p
    rw [List.length_cons] at hocnt ⊢
    simp only [walkPixels] at h
    cases hv : visitPixel x y s with
    | appended u =>
      rw [hv] at h
      obtain ⟨hu, hcount⟩ := visitPixel_jobInv hs (by omega) hv
      obtain ⟨hs', hcount'⟩ := ih hu (by omega) h
      exact ⟨hs', by omega⟩
    | full => rw [hv] at h; cases h
    | noPixel => rw [hv] at h; cases h

/-- What a walk leaves alone: only the table, `OUT` and `OCNT` change. -/
theorem walkPixels_frame {ps : List (Nat × Nat)} {s s' : State} (h : walkPixels ps s = .finished s') :
    s' = { s with table := s'.table, out := s'.out, ocnt := s'.ocnt } :=
  (walkPixels_induction (P := fun u => u = { s with table := u.table, out := u.out, ocnt := u.ocnt })
    (fun x y u v hu hv => by rw [visitPixel_frame hv, hu]) ps s rfl).1 s' h

theorem pixels_lt (w h : Dim) : w.toNat * h.toNat < 2 ^ 32 :=
  calc w.toNat * h.toNat < 2 ^ 16 * 2 ^ 16 := Nat.mul_lt_mul'' w.isLt h.isLt
    _ = 2 ^ 32 := rfl

/-- An ENCODE that completes leaves an idle block with a stream of `W × H` slots. -/
theorem execEncode_blockInv {w h : Dim} {s t : State} (hb : s.status.busy = false) (hs : BlockInv s)
    (he : execEncode w h s = .next t) : BlockInv t := by
  rcases execEncode_cases w h s with ⟨_, e⟩ | ⟨hd, ⟨u, hu, e⟩ | ⟨u, _, e⟩ | ⟨x, y, _, e⟩⟩ <;> cases e.symm.trans he
  · exact hs.frame hb
  · obtain ⟨hw, hh⟩ := (dimensionsOk_iff w h).1 hd
    have hlen := walkOrder_length hw hh
    obtain ⟨⟨ht, hcap, hstream⟩, hcount⟩ :=
      walkPixels_jobInv _ (startJob_jobInv hd s) (by rw [hlen]; simpa using pixels_lt w h) hu
    rw [hlen, startJob_ocnt, BitVec.toNat_zero, Nat.zero_add] at hcount
    have hframe := walkPixels_frame hu
    have hcount' : u.ocnt.toNat = u.w.toNat * u.h.toNat := by rw [hcount, hframe]; rfl
    refine .of_idle ?_ ht ⟨?_, hstream.mono rfl rfl rfl rfl (Nat.le_refl _), fun _ => ⟨hcount', hcap⟩, fun e => by cases e⟩
      (.of_empty ?_ ?_ ?_)
    · rw [hframe]; exact hb
    · rw [hframe]; exact (hs.idle hb).1.pos_zero
    · rw [hframe]; rfl
    · rw [hframe]; rfl
    · rw [hframe]; rfl
  · exact raise_tooManyColors_blockInv u

/-- The start step of an ENCODE leaves the block in phase RUN at rank 0, or idle after DimensionError. -/
theorem encodeStart_blockInv {w h : Dim} {s t : State} (hb : s.status.busy = false) (hs : BlockInv s)
    (he : encodeStart w h s = .next t) : BlockInv t := by
  rcases encodeStart_cases w h s with ⟨_, e⟩ | ⟨hd, e⟩ <;> cases e.symm.trans he
  · exact hs.frame hb
  · have hjob := startJob_jobInv hd s
    exact .of_run rfl hjob.table
      { cap_eq := rfl, ovalid := rfl, pvalid := rfl, plen := rfl, pbuf := rfl
        stream := hjob.stream.mono rfl rfl rfl rfl (Nat.le_refl _)
        ocnt_le := Nat.zero_le _
        pos_rank := fun _ => by constructor <;> simp [Pos.zero]
        pos_end := fun _ => rfl }

/-- A PIXSTEP that appends stays in phase RUN, at the next rank. -/
theorem pixStep_runInv {s u : State} (ht : TableInv s.table) (hr : RunInv s) (hlt : s.ocnt.toNat < pixelCount s)
    (hu : visitPixel (pixelX s.pos) (pixelY s.pos) s = .appended u) :
    JobInv u ∧ RunInv { u with pos := advance s.w s.h s.pos } := by
  have hbound : s.ocnt.toNat + 1 < 2 ^ 32 := by have := pixels_lt s.w s.h; rw [pixelCount] at hlt; omega
  obtain ⟨hjob, hcount⟩ := visitPixel_jobInv ⟨ht, hr.cap_eq, hr.stream⟩ hbound hu
  obtain ⟨hnext, hend⟩ := advance_posAtRank hr.stream.w_aligned hr.stream.h_aligned hlt (hr.pos_rank hlt)
  have hframe := visitPixel_frame hu
  have hw : u.w = s.w := by rw [hframe]
  have hstatus : u.status = s.status := by rw [hframe]
  have hpixels : pixelCount u = pixelCount s := by rw [hframe]; rfl
  refine ⟨hjob, hjob.cap_eq, hstatus ▸ hr.ovalid, hstatus ▸ hr.pvalid, ?_, ?_,
    hjob.stream.mono rfl rfl rfl rfl (Nat.le_refl _), ?_, fun (hl : u.ocnt.toNat < pixelCount u) => ?_,
    fun (he : u.ocnt.toNat = pixelCount u) => ?_⟩
  · rw [hframe]; exact hr.plen
  · rw [hframe]; exact hr.pbuf
  · show u.ocnt.toNat ≤ pixelCount u
    omega
  · show PosAtRank u.w u.ocnt.toNat (advance s.w s.h s.pos)
    rw [hcount, hpixels] at hl
    rw [hw, hcount]
    exact hnext hl
  · rw [hcount, hpixels] at he
    exact hend he

/-- The completion step leaves an idle block with a valid stream (R156). -/
theorem completeStep_blockInv {s : State} (ht : TableInv s.table) (hr : RunInv s) (heq : s.ocnt.toNat = pixelCount s) :
    BlockInv (completeStep s) :=
  .of_idle rfl ht
    ⟨rfl, hr.stream.mono rfl rfl rfl rfl (Nat.le_refl _), fun _ => ⟨heq, hr.cap_eq⟩, fun e => by cases e⟩
    (.of_empty hr.plen hr.pbuf hr.pvalid)

theorem sequencerStep_blockInv {s t : State} (hb : s.status.busy = true) (hs : BlockInv s)
    (h : sequencerStep s = .next t) : BlockInv t := by
  have hr := hs.run hb
  rcases sequencerStep_cases s with ⟨hlt, ⟨u, hu, e⟩ | ⟨_, e⟩ | ⟨_, e⟩⟩ | ⟨heq, e⟩ | ⟨_, e⟩ <;> cases e.symm.trans h
  · obtain ⟨hjob, hrun⟩ := pixStep_runInv hs.table hr hlt hu
    exact .of_run (by rw [visitPixel_frame hu]; exact hb) hjob.table hrun
  · exact raise_tooManyColors_blockInv s
  · exact completeStep_blockInv hs.table hr heq

theorem exec_blockInv {i : Instr} {s t : State} (hwf : i.wf = true) (hb : s.status.busy = false) (hs : BlockInv s)
    (h : exec i s = .next t) : BlockInv t := by
  cases i with
  | quant c => cases h; exact hs.frame hb
  | pnew cap => exact execPnew_blockInv (by simpa using hwf) hb hs h
  | plki c => exact execPlki_blockInv hb hs h
  | pser => exact execPser_blockInv hb hs h
  | encode w h' => exact execEncode_blockInv hb hs h

/-- Every move keeps the invariant of the block. -/
theorem blockInv_keptByMoves : KeptByMoves BlockInv where
  reset := fun s _ => applyReset_blockInv s
  taken := fun _ _ _ hb hs => hs.frame hb
  illegal := fun _ hb hs => hs.frame hb
  command := fun _ _ _ hwf hb hs h => exec_blockInv hwf hb hs h
  start := fun _ _ _ _ hb hs h => encodeStart_blockInv hb hs h
  run := fun _ _ hb hs h => sequencerStep_blockInv hb hs h

/-- Settles O47: idle moves empty, keep or rewrite each output as its invariant asks; a PIXSTEP moves `POS` and `OCNT` to the
next rank together. -/
theorem stepKeepsTheInvariant : Obligations.StepKeepsTheInvariant := by
  unfold Obligations.StepKeepsTheInvariant
  exact fun _ _ hs h => blockInv_keptByMoves.step hs h

/-- Settles O45: the fields as R39 tables them; the reset state is its own reset, which meets the invariant. -/
theorem resetStateValues : Obligations.ResetStateValues := by
  unfold Obligations.ResetStateValues
  exact ⟨rfl, rfl, fun _ => rfl, fun _ => rfl, rfl, rfl, rfl, rfl, fun _ => rfl, fun _ => rfl, rfl, rfl, rfl, rfl,
    applyReset_blockInv State.reset⟩

end Sys2Proof.Machine
end

section
/-! What the host's read of one byte gives (`20_memory.md` R69). -/

namespace Sys2Proof.Machine

/-- A one-byte read is the byte the space lists. -/
theorem memRead_one (m : Memory) (addr : Nat) : memRead m addr 1 = (storeRead m addr).map BitVec.toNat := by
  simp only [memRead]
  cases storeRead m addr <;> simp

/-- The host reads one byte as `v` when the byte is readable and the space lists it with that value. -/
theorem hostMemRead_one_eq_some_iff (sp : HostSpace) (k v : Nat) (s : State) :
    hostMemRead sp k 1 s = some v ↔
      k < readableLength sp s ∧ ∃ b, storeRead (spaceMemory sp s) k = some b ∧ b.toNat = v := by
  rw [hostMemRead, memRead_one, ← Nat.succ_le_iff, Option.ite_none_right_eq_some, Option.map_eq_some_iff]

theorem lt_readableLength_out_iff (k : Nat) (s : State) :
    k < readableLength .out s ↔ s.status.busy = false ∧ s.status.ovalid = true ∧ k < s.ocnt.toNat := by
  cases hb : s.status.busy <;> cases hv : s.status.ovalid <;> simp [readableLength, hb, hv]

theorem lt_readableLength_pbuf_iff (j : Nat) (s : State) :
    j < readableLength .pbuf s ↔ s.status.busy = false ∧ s.status.pvalid = true ∧ j < s.plen.toNat := by
  cases hb : s.status.busy <;> cases hv : s.status.pvalid <;> simp [readableLength, hb, hv]

/-- Every readable byte exists: an idle block lists each space up to its length (R54, R55). -/
theorem BlockInv.readable_listed {s : State} (hs : BlockInv s) {sp : HostSpace} {k : Nat} (hk : k < readableLength sp s) :
    (storeRead (spaceMemory sp s) k).isSome = true := by
  cases sp with
  | out =>
    obtain ⟨hb, -, hlt⟩ := (lt_readableLength_out_iff k s).1 hk
    exact ((hs.idle hb).1.stream.out_listed k).2 hlt
  | pbuf =>
    obtain ⟨hb, -, hlt⟩ := (lt_readableLength_pbuf_iff k s).1 hk
    exact ((hs.idle hb).2.pbuf_listed k).2 hlt

/-- The host's read of a readable byte answers, and gives the byte that is there. -/
theorem BlockInv.hostMemRead_one {s : State} (hs : BlockInv s) {sp : HostSpace} {k : Nat} (hk : k < readableLength sp s) :
    ∃ b, storeRead (spaceMemory sp s) k = some b ∧ hostMemRead sp k 1 s = some b.toNat := by
  obtain ⟨b, hread⟩ := Option.isSome_iff_exists.1 (hs.readable_listed hk)
  exact ⟨b, hread, (hostMemRead_one_eq_some_iff sp k _ s).2 ⟨hk, b, hread, rfl⟩⟩

/-- Settles O58: a read that answers is of a readable byte, and under the invariant every readable byte is there to answer. -/
theorem hostReadsOnlyValidBytes : Obligations.HostReadsOnlyValidBytes := by
  unfold Obligations.HostReadsOnlyValidBytes
  refine ⟨fun k v s h => ?_, fun j v s h => ?_, fun k s hs hb hv hk => ?_, fun j s hs hb hv hj => ?_⟩
  · exact (lt_readableLength_out_iff k s).1 ((hostMemRead_one_eq_some_iff .out k v s).1 h).1
  · exact (lt_readableLength_pbuf_iff j s).1 ((hostMemRead_one_eq_some_iff .pbuf j v s).1 h).1
  · exact hs.hostMemRead_one ((lt_readableLength_out_iff k s).2 ⟨hb, hv, hk⟩)
  · exact hs.hostMemRead_one ((lt_readableLength_pbuf_iff j s).2 ⟨hb, hv, hj⟩)

end Sys2Proof.Machine
end

section
/-! The command word as fields and the decoder by opcode (`30_encoding.md` R84 to R88, R93): one equation per opcode, and that
the encoder is the decoder's inverse on both sides. -/

namespace Sys2Proof.Machine

/-! ### The two fields of a word and the four channels of a colour -/

@[simp] theorem opField_append (op : BitVec 8) (arg : BitVec 32) : opField (op ++ arg) = op :=
  BitVec.extractLsb'_append_eq_left

@[simp] theorem argField_append (op : BitVec 8) (arg : BitVec 32) : argField (op ++ arg) = arg :=
  BitVec.extractLsb'_append_eq_right

/-- A word is its opcode over its argument (R84). -/
theorem opField_append_argField (cw : CommandWord) : opField cw ++ argField cw = cw :=
  BitVec.extractLsb'_append_extractLsb'

theorem opField_toNat (cw : CommandWord) : (opField cw).toNat = cw.toNat / 2 ^ 32 := by
  have := cw.isLt
  rw [opField, extract_toNat]
  omega

theorem argField_toNat (cw : CommandWord) : (argField cw).toNat = cw.toNat % 2 ^ 32 := by
  rw [argField, extract_toNat, Nat.pow_zero, Nat.div_one]

/-- The opcode of a word as a number. -/
theorem opField_eq_iff (cw : CommandWord) (op : BitVec 8) : opField cw = op ↔ cw.toNat / 2 ^ 32 = op.toNat := by
  rw [← BitVec.toNat_inj, opField_toNat]

/-- Every word has one of the five opcodes of R90 or a reserved one. -/
theorem opField_cases (cw : CommandWord) :
    opField cw = 0x01#8 ∨ opField cw = 0x02#8 ∨ opField cw = 0x03#8 ∨ opField cw = 0x04#8 ∨ opField cw = 0x05#8 ∨
      (cw.toNat / 2 ^ 32 = 0 ∨ 6 ≤ cw.toNat / 2 ^ 32) := by
  simp only [opField_eq_iff, BitVec.toNat_ofNat]
  omega

/-- A field as the number its bits spell (R89). -/
theorem extract_eq_ofNat {n : Nat} (v : BitVec n) (lo len : Nat) :
    v.extractLsb' lo len = BitVec.ofNat len (v.toNat / 2 ^ lo) := by
  rw [BitVec.extractLsb', Nat.shiftRight_eq_div_pow]

/-- The channels of a colour word as the numbers its bytes spell (R80). -/
theorem trueColorOfWord_eq (v : BitVec 32) :
    trueColorOfWord v = ⟨BitVec.ofNat 8 v.toNat, BitVec.ofNat 8 (v.toNat / 2 ^ 8), BitVec.ofNat 8 (v.toNat / 2 ^ 16),
      BitVec.ofNat 8 (v.toNat / 2 ^ 24)⟩ := by
  simp only [trueColorOfWord, extract_eq_ofNat, Nat.pow_zero, Nat.div_one]

/-- Splitting a colour word into channels undoes joining them (R80). -/
theorem trueColorOfWord_wordOfTrueColor (c : TrueColor) : trueColorOfWord (wordOfTrueColor c) = c := by
  obtain ⟨r, g, b, a⟩ := c
  have := r.isLt; have := g.isLt; have := b.isLt; have := a.isLt
  simp only [trueColorOfWord, wordOfTrueColor, TrueColor.mk.injEq, ← BitVec.toNat_inj, extract_toNat, append_toNat]
  omega

/-- Joining the channels of a colour word undoes splitting it (R80). -/
theorem wordOfTrueColor_trueColorOfWord (v : BitVec 32) : wordOfTrueColor (trueColorOfWord v) = v := by
  have := v.isLt
  simp only [trueColorOfWord, wordOfTrueColor, ← BitVec.toNat_inj, extract_toNat, append_toNat]
  omega

/-! ### The decoder, opcode by opcode (R93) -/

theorem decode_op_quant {cw : CommandWord} (h : opField cw = 0x01#8) :
    decode cw = .command (.quant (trueColorOfWord (argField cw))) := by
  simp [decode, h]

theorem decode_op_pnew {cw : CommandWord} (h : opField cw = 0x02#8) : decode cw = decodePnew (argField cw) := by
  simp [decode, h]

theorem decode_op_plki {cw : CommandWord} (h : opField cw = 0x03#8) :
    decode cw = .command (.plki (trueColorOfWord (argField cw))) := by
  simp [decode, h]

theorem decode_op_pser {cw : CommandWord} (h : opField cw = 0x04#8) : decode cw = decodePser (argField cw) := by
  simp [decode, h]

theorem decode_op_encode {cw : CommandWord} (h : opField cw = 0x05#8) :
    decode cw = .command (.encode ((argField cw).extractLsb' 0 16) ((argField cw).extractLsb' 16 16)) := by
  simp [decode, decodeEncode, h]

theorem decode_op_reserved {cw : CommandWord} (h : cw.toNat / 2 ^ 32 = 0 ∨ 6 ≤ cw.toNat / 2 ^ 32) :
    decode cw = .illegal .reservedOpcode := by
  have hne : ∀ op : BitVec 8, 0 < op.toNat → op.toNat < 6 → opField cw ≠ op := fun op h0 h6 he => by
    rw [(opField_eq_iff cw op).1 he] at h
    omega
  simp [decode, hne 1#8, hne 2#8, hne 3#8, hne 4#8, hne 5#8]

/-- PNEW's argument is legal when as a number it is at most `CAP_MAX` (R86). -/
theorem decodePnew_of_le {arg : BitVec 32} (h : arg.toNat ≤ 256) :
    decodePnew arg = .command (.pnew (arg.extractLsb' 0 9)) := by
  have hhigh : arg.extractLsb' 9 23 = 0#23 := by
    rw [← BitVec.toNat_inj, extract_toNat, BitVec.toNat_zero]
    omega
  have hlow : (arg.extractLsb' 0 9).toNat ≤ Config.ctq.capMax := by
    rw [extract_toNat, Config.ctq_capMax]
    omega
  rw [decodePnew, if_pos hhigh, if_pos hlow]

/-- Above `CAP_MAX` a reserved bit of PNEW's argument is set or its capacity is too large (R86, R92). -/
theorem decodePnew_of_gt {arg : BitVec 32} (h : 256 < arg.toNat) : ∃ why, decodePnew arg = .illegal why := by
  rw [decodePnew]
  split
  next hhigh =>
    have hlow : ¬ (arg.extractLsb' 0 9).toNat ≤ Config.ctq.capMax := by
      rw [← BitVec.toNat_inj, extract_toNat, BitVec.toNat_zero] at hhigh
      rw [extract_toNat, Config.ctq_capMax]
      have := arg.isLt
      omega
    exact ⟨_, if_neg hlow⟩
  next => exact ⟨_, rfl⟩

theorem decodePser_zero : decodePser 0#32 = .command .pser := rfl

theorem decodePser_of_ne {arg : BitVec 32} (h : arg ≠ 0#32) : decodePser arg = .illegal .pserOperand :=
  if_neg h

/-! ### The encoder as the decoder's inverse -/

theorem encode_pnew_eq (cap : Capacity) : encode (.pnew cap) = 0x02#8 ++ (0#23 ++ cap) := BitVec.append_assoc

theorem encode_encode_eq (w h : Dim) : encode (.encode w h) = 0x05#8 ++ (h ++ w) := BitVec.append_assoc

/-- The word of a legal command decodes as that command. -/
theorem decode_encode_of_wf {i : Instr} (hwf : i.wf = true) : decode (encode i) = .command i := by
  cases i with
  | quant c =>
    rw [encode, decode_op_quant (opField_append ..), argField_append, trueColorOfWord_wordOfTrueColor]
  | pnew cap =>
    have hcap : (0#23 ++ cap : BitVec 32).toNat ≤ 256 := by
      rw [append_toNat]
      simpa using hwf
    rw [encode_pnew_eq, decode_op_pnew (opField_append ..), argField_append, decodePnew_of_le hcap,
      BitVec.extractLsb'_append_eq_right]
  | plki c =>
    rw [encode, decode_op_plki (opField_append ..), argField_append, trueColorOfWord_wordOfTrueColor]
  | pser => rfl
  | encode w h =>
    rw [encode_encode_eq, decode_op_encode (opField_append ..), argField_append, BitVec.extractLsb'_append_eq_left,
      BitVec.extractLsb'_append_eq_right]

/-- A word that decodes as a command is the word of that command. -/
theorem encode_of_decode {cw : CommandWord} {i : Instr} (h : decode cw = .command i) : encode i = cw := by
  have hcw := opField_append_argField cw
  rcases opField_cases cw with hop | hop | hop | hop | hop | hop
  · cases (decode_op_quant hop).symm.trans h
    rw [encode, wordOfTrueColor_trueColorOfWord, ← hop, hcw]
  · rw [decode_op_pnew hop] at h
    rcases Nat.lt_or_ge 256 (argField cw).toNat with hgt | hle
    · obtain ⟨why, e⟩ := decodePnew_of_gt hgt
      cases e.symm.trans h
    · cases (decodePnew_of_le hle).symm.trans h
      have harg : 0#23 ++ (argField cw).extractLsb' 0 9 = argField cw := by
        rw [← BitVec.toNat_inj, append_toNat, extract_toNat, BitVec.toNat_zero]
        omega
      rw [encode_pnew_eq, harg, ← hop, hcw]
  · cases (decode_op_plki hop).symm.trans h
    rw [encode, wordOfTrueColor_trueColorOfWord, ← hop, hcw]
  · rw [decode_op_pser hop] at h
    by_cases harg : argField cw = 0#32
    · rw [harg] at h hcw
      cases decodePser_zero.symm.trans h
      rw [encode, ← hop, hcw]
    · cases (decodePser_of_ne harg).symm.trans h
  · cases (decode_op_encode hop).symm.trans h
    rw [encode_encode_eq, BitVec.extractLsb'_append_extractLsb', ← hop, hcw]
  · cases (decode_op_reserved hop).symm.trans h

/-! ### Which words are illegal -/

theorem decodePnew_illegal_iff (arg : BitVec 32) : (∃ why, decodePnew arg = .illegal why) ↔ 256 < arg.toNat := by
  refine ⟨fun ⟨why, h⟩ => ?_, decodePnew_of_gt⟩
  by_contra hle
  cases (decodePnew_of_le (Nat.le_of_not_lt hle)).symm.trans h

theorem decodePser_illegal_iff (arg : BitVec 32) : (∃ why, decodePser arg = .illegal why) ↔ arg.toNat ≠ 0 := by
  rw [Ne, ← BitVec.toNat_zero (w := 32), BitVec.toNat_inj]
  refine ⟨?_, fun h => ⟨_, decodePser_of_ne h⟩⟩
  rintro ⟨why, h⟩ rfl
  cases h

/-- The illegal words as numbers (R92, R93). -/
theorem decode_illegal_iff (cw : CommandWord) : (∃ why, decode cw = .illegal why) ↔
    (cw.toNat / 2 ^ 32 = 0 ∨ 6 ≤ cw.toNat / 2 ^ 32) ∨
    (cw.toNat / 2 ^ 32 = 2 ∧ 256 < cw.toNat % 2 ^ 32) ∨
    (cw.toNat / 2 ^ 32 = 4 ∧ cw.toNat % 2 ^ 32 ≠ 0) := by
  rw [← argField_toNat]
  rcases opField_cases cw with hop | hop | hop | hop | hop | hop
  · rw [(opField_eq_iff cw _).1 hop]
    simp [decode_op_quant hop]
  · rw [(opField_eq_iff cw _).1 hop, decode_op_pnew hop, decodePnew_illegal_iff]
    simp
  · rw [(opField_eq_iff cw _).1 hop]
    simp [decode_op_plki hop]
  · rw [(opField_eq_iff cw _).1 hop, decode_op_pser hop, decodePser_illegal_iff]
    simp
  · rw [(opField_eq_iff cw _).1 hop]
    simp [decode_op_encode hop]
  · exact iff_of_true ⟨_, decode_op_reserved hop⟩ (.inl hop)

/-- Settles O1: the decoder's equation for each opcode with its fields as numbers; each format's fields and word are each
other's inverse. -/
theorem decodeProcedureAndItsInverse : Obligations.DecodeProcedureAndItsInverse := by
  unfold Obligations.DecodeProcedureAndItsInverse
  refine ⟨?_, fun _ => decode_encode_of_wf, fun _ _ h => ⟨encode_of_decode h, decode_wf h⟩⟩
  rintro cw _ _ rfl rfl
  have hill := (decode_illegal_iff cw).2
  rw [← argField_toNat] at hill ⊢
  refine ⟨fun hop => ?_, fun hop _ harg => ?_, fun hop => ?_, fun hop harg => ?_, fun hop => ?_,
    fun hop harg => hill (.inr (.inl ⟨hop, harg⟩)), fun hop harg => hill (.inr (.inr ⟨hop, harg⟩)),
    fun hop => hill (.inl hop)⟩
  · rw [decode_op_quant ((opField_eq_iff cw _).2 hop), trueColorOfWord_eq]
  · rw [decode_op_pnew ((opField_eq_iff cw _).2 hop), decodePnew_of_le harg, extract_eq_ofNat, Nat.pow_zero,
      Nat.div_one]
  · rw [decode_op_plki ((opField_eq_iff cw _).2 hop), trueColorOfWord_eq]
  · rw [decode_op_pser ((opField_eq_iff cw _).2 hop),
      show argField cw = 0#32 from BitVec.eq_of_toNat_eq harg, decodePser_zero]
  · rw [decode_op_encode ((opField_eq_iff cw _).2 hop), extract_eq_ofNat, extract_eq_ofNat, Nat.pow_zero,
      Nat.div_one]

end Sys2Proof.Machine
end

section
/-! The effect of an illegal word (R92), and the opcode map by match and mask (R90). -/

namespace Sys2Proof.Machine

/-- A block that accepts a request does what the accepted word says, and nothing else. -/
theorem blockStep_accepts {run : Instr → State → Host.Outcome State Fault Refusal}
    {internal : State → Host.Outcome State Fault Refusal} {s : State} {r : Request} {rest : List Request}
    (h : Accepts s r rest) : blockStep run internal s = acceptCommand run r rest s := by
  obtain ⟨hpin, hidle, hport⟩ := h
  simp [blockStep, hpin, hidle, hport]

/-- An illegal word leaves its code and its response, whatever a legal one would do (R92, R194). -/
theorem blockStep_illegal {run : Instr → State → Host.Outcome State Fault Refusal}
    {internal : State → Host.Outcome State Fault Refusal} {s : State} {r : Request} {rest : List Request}
    {why : IllegalReason} (h : Accepts s r rest) (hd : decode r.word = .illegal why) :
    blockStep run internal s = .next (onlyCode .illegalCommand (taken s r rest)) := by
  rw [blockStep_accepts h, acceptCommand, hd]
  rfl

/-- Settles O2: a PNEW argument above 256 has a bit set above its capacity field or a capacity that is too large; both levels
answer an illegal word alike. -/
theorem illegalWordsAndTheirEffect : Obligations.IllegalWordsAndTheirEffect := by
  unfold Obligations.IllegalWordsAndTheirEffect
  refine ⟨fun cw => ?_, fun s r rest why hacc hd => ⟨blockStep_illegal hacc hd, blockStep_illegal hacc hd⟩⟩
  have hcap : (cw.toNat / 2 ^ 9 % 2 ^ 23 ≠ 0 ∨ 256 < cw.toNat % 2 ^ 9) ↔ 256 < cw.toNat % 2 ^ 32 := by omega
  rw [decode_illegal_iff, hcap]

/-- The word of every command selects the command's row of R90 and no other. -/
theorem tableRow (i : Instr) : Laws.TableRow.Statement i := by
  cases i with
  | quant c => exact Laws.TableRow.quant c
  | pnew cap => exact Laws.TableRow.pnew cap
  | plki c => exact Laws.TableRow.plki c
  | pser => exact Laws.TableRow.pser
  | encode w h => exact Laws.TableRow.encode w h

/-- A word that decodes as a command is selected by the command's row of R90. -/
theorem and_mask_of_decode {cw : CommandWord} {i : Instr} (h : decode cw = .command i) :
    cw &&& i.row.mask = i.row.pattern := by
  obtain ⟨-, hselected, -⟩ := tableRow i
  rw [encode_of_decode h] at hselected
  exact beq_iff_eq.1 hselected

/-- A word that a row of R90 selects has the row's opcode. -/
theorem opField_of_and_mask {cw pattern mask : CommandWord} (hrow : ⟨pattern, mask⟩ ∈ opcodeRows)
    (h : cw &&& mask = pattern) : opField cw = opField pattern :=
  (Laws.opField_of_selectedBy hrow (beq_iff_eq.2 h)).symm

/-- The mask of the opcode leaves the opcode alone. -/
theorem and_opcodeMask (cw : CommandWord) :
    cw &&& 0xFF00000000#40 = BitVec.ofNat 40 (cw.toNat / 2 ^ 32 * 2 ^ 32) := by
  have h := Laws.append_and_mask (opField cw) (argField cw) 0#32 BitVec.and_zero
  rw [opField_append_argField] at h
  refine h.trans (BitVec.eq_of_toNat_eq ?_)
  have := cw.isLt
  rw [append_toNat, opField_toNat, BitVec.toNat_zero, BitVec.toNat_ofNat]
  omega

/-- The mask of the capacity field leaves the low nine bits (R86). -/
theorem and_capacityMask_toNat (cw : CommandWord) : (cw &&& 0x00000001FF#40).toNat = cw.toNat % 2 ^ 9 := by
  rw [BitVec.toNat_and]
  exact Nat.and_two_pow_sub_one_eq_mod _ 9

/-- PNEW's row fixes every bit above the capacity field (R86). -/
theorem argField_of_pnewRow {cw : CommandWord} (h : cw &&& 0xFFFFFFFE00#40 = 0x0200000000#40) :
    (argField cw).toNat = cw.toNat % 2 ^ 9 := by
  have hhigh : cw.extractLsb' 9 31 = 0x1000000#31 := by
    have := congrArg (BitVec.extractLsb' 9 31) h
    rw [BitVec.extractLsb'_and] at this
    exact BitVec.and_allOnes.symm.trans this
  rw [← BitVec.toNat_inj, extract_toNat, BitVec.toNat_ofNat] at hhigh
  rw [argField_toNat]
  omega

/-- PNEW is selected by its match and mask and a capacity field of at most `CAP_MAX` (R86, R90). -/
theorem decode_pnew_iff (cw : CommandWord) : (∃ cap, decode cw = .command (.pnew cap)) ↔
    cw &&& 0xFFFFFFFE00#40 = 0x0200000000#40 ∧ (cw &&& 0x00000001FF#40).toNat ≤ 256 := by
  rw [and_capacityMask_toNat]
  constructor
  · rintro ⟨cap, h⟩
    have hcap : cap.toNat ≤ 256 := by simpa using decode_wf h
    refine ⟨and_mask_of_decode h, ?_⟩
    rw [← encode_of_decode h, encode_pnew_eq, append_toNat, append_toNat]
    omega
  · rintro ⟨h, hcap⟩
    rw [← argField_of_pnewRow h] at hcap
    exact ⟨_, (decode_op_pnew (opField_of_and_mask (by decide) h)).trans (decodePnew_of_le hcap)⟩

/-- Settles O3: the rows of R90 select the encoded words, a selected word has its row's opcode, and a word that no opcode of
the map matches has a reserved one. -/
theorem opcodeMapByMatchAndMask : Obligations.OpcodeMapByMatchAndMask := by
  unfold Obligations.OpcodeMapByMatchAndMask
  refine fun cw => ⟨⟨fun ⟨_, h⟩ => and_mask_of_decode h, fun h => ?_⟩, decode_pnew_iff cw,
    ⟨fun ⟨_, h⟩ => and_mask_of_decode h, fun h => ?_⟩, ⟨fun h => and_mask_of_decode h, fun h => ?_⟩,
    ⟨fun ⟨_, _, h⟩ => and_mask_of_decode h, fun h => ?_⟩, fun hne => ?_⟩
  · exact ⟨_, decode_op_quant (opField_of_and_mask (by decide) h)⟩
  · exact ⟨_, decode_op_plki (opField_of_and_mask (by decide) h)⟩
  · rw [show cw = 0x0400000000#40 from BitVec.and_allOnes.symm.trans h]
    rfl
  · exact ⟨_, _, decode_op_encode (opField_of_and_mask (by decide) h)⟩
  · have hop : cw.toNat / 2 ^ 32 ∉ [1, 2, 3, 4, 5] := fun hmem => hne _ hmem (and_opcodeMask cw)
    simp only [List.mem_cons, List.not_mem_nil, or_false] at hop
    exact ⟨_, decode_op_reserved (by omega)⟩

end Sys2Proof.Machine
end

section
/-! The quantizer as arithmetic and as fields (`40_quantizer.md` R111, R112); a HardwareColor and the bits the quantizer drops
restore the TrueColor (R113). -/

namespace Sys2Proof.Machine

/-! ### The three fields -/

/-- The packed channels as a sum (R111). -/
theorem quantize_toNat (c : TrueColor) :
    (quantize c).toNat = c.r.toNat / 8 + c.g.toNat / 8 * 2 ^ 5 + c.b.toNat / 8 * 2 ^ 10 := by
  have := c.r.isLt; have := c.g.isLt; have := c.b.isLt
  rw [quantize_eq_append]
  simp only [append_toNat, extract_toNat, BitVec.toNat_zero]
  omega

/-- The 5-bit result of a channel is its quotient by 8 (R112). -/
theorem channel_toNat (v : Byte) : (v.extractLsb' 3 5).toNat = v.toNat / 8 := by
  have := v.isLt
  rw [extract_toNat]
  omega

/-- `R` is packed in bits 4:0. -/
theorem quantize_field_r (c : TrueColor) : (quantize c).extractLsb' 0 5 = c.r.extractLsb' 3 5 := by
  have := c.r.isLt
  rw [← BitVec.toNat_inj, extract_toNat, channel_toNat, quantize_toNat]
  omega

/-- `G` is packed in bits 9:5. -/
theorem quantize_field_g (c : TrueColor) : (quantize c).extractLsb' 5 5 = c.g.extractLsb' 3 5 := by
  have := c.r.isLt; have := c.g.isLt
  rw [← BitVec.toNat_inj, extract_toNat, channel_toNat, quantize_toNat]
  omega

/-- `B` is packed in bits 14:10. -/
theorem quantize_field_b (c : TrueColor) : (quantize c).extractLsb' 10 5 = c.b.extractLsb' 3 5 := by
  have := c.r.isLt; have := c.g.isLt; have := c.b.isLt
  rw [← BitVec.toNat_inj, extract_toNat, channel_toNat, quantize_toNat]
  omega

/-- Settles O7: the packed word as a sum of quotients, whose fields are the truncated channels. -/
theorem quantizeTruncatesAndPacks : Obligations.QuantizeTruncatesAndPacks := by
  unfold Obligations.QuantizeTruncatesAndPacks
  intro c
  rw [quantize_field_r, quantize_field_g, quantize_field_b]
  exact ⟨quantize_toNat c, rfl, channel_toNat c.r, rfl, channel_toNat c.g, rfl, channel_toNat c.b,
    Nat.testBit_lt_two_pow (quantize_lt c)⟩

/-! ### What a HardwareColor leaves open -/

/-- The image of a colour is `hc` exactly when its truncated channels are the fields of `hc`. -/
theorem quantize_eq_iff (c : TrueColor) {hc : HardwareColor} (hhc : hc.toNat ≤ 0x7FFF) : quantize c = hc ↔
    c.r.extractLsb' 3 5 = hc.extractLsb' 0 5 ∧ c.g.extractLsb' 3 5 = hc.extractLsb' 5 5 ∧
      c.b.extractLsb' 3 5 = hc.extractLsb' 10 5 := by
  constructor
  · rintro rfl
    exact ⟨(quantize_field_r c).symm, (quantize_field_g c).symm, (quantize_field_b c).symm⟩
  · rintro ⟨hr, hg, hb⟩
    rw [← BitVec.toNat_inj, quantize_toNat, ← channel_toNat, ← channel_toNat, ← channel_toNat, hr, hg, hb]
    simp only [extract_toNat]
    omega

/-- The 17 bits of a TrueColor that the quantizer does not read: `{A, B[2:0], G[2:0], R[2:0]}` (R113). -/
def droppedBits (c : TrueColor) : BitVec 17 :=
  c.a ++ (c.b.extractLsb' 0 3 ++ (c.g.extractLsb' 0 3 ++ c.r.extractLsb' 0 3))

/-- The TrueColor with the image `hc` and the dropped bits `k`. -/
def restoreColor (hc : HardwareColor) (k : BitVec 17) : TrueColor where
  r := hc.extractLsb' 0 5 ++ k.extractLsb' 0 3
  g := hc.extractLsb' 5 5 ++ k.extractLsb' 3 3
  b := hc.extractLsb' 10 5 ++ k.extractLsb' 6 3
  a := k.extractLsb' 9 8

theorem quantize_restoreColor {hc : HardwareColor} (hhc : hc.toNat ≤ 0x7FFF) (k : BitVec 17) :
    quantize (restoreColor hc k) = hc :=
  (quantize_eq_iff _ hhc).2 ⟨BitVec.extractLsb'_append_eq_left, BitVec.extractLsb'_append_eq_left,
    BitVec.extractLsb'_append_eq_left⟩

theorem droppedBits_restoreColor (hc : HardwareColor) (k : BitVec 17) : droppedBits (restoreColor hc k) = k := by
  have := k.isLt
  simp only [droppedBits, restoreColor, BitVec.extractLsb'_append_eq_right, ← BitVec.toNat_inj, append_toNat, extract_toNat]
  omega

theorem restoreColor_quantize (c : TrueColor) : restoreColor (quantize c) (droppedBits c) = c := by
  obtain ⟨r, g, b, a⟩ := c
  have := r.isLt; have := g.isLt; have := b.isLt; have := a.isLt
  simp only [restoreColor, quantize_field_r, quantize_field_g, quantize_field_b, droppedBits, TrueColor.mk.injEq,
    ← BitVec.toNat_inj, append_toNat, extract_toNat]
  omega

theorem quantize_le (c : TrueColor) : (quantize c).toNat ≤ 0x7FFF := Nat.le_of_lt_succ (quantize_lt c)

/-- Settles O8: an image fixes the three truncated channels; a colour is its image and its 17 dropped bits, which are free. -/
theorem quantizeCollapseLaw : Obligations.QuantizeCollapseLaw := by
  unfold Obligations.QuantizeCollapseLaw
  refine ⟨fun c1 c2 => ?_, fun hc hhc => ⟨restoreColor hc, ?_, fun c => ⟨?_, ?_⟩⟩, quantize_le⟩
  · rw [quantize_eq_iff c1 (quantize_le c2), quantize_field_r, quantize_field_g, quantize_field_b]
  · exact Function.LeftInverse.injective (droppedBits_restoreColor hc)
  · rintro rfl
    exact ⟨droppedBits c, restoreColor_quantize c⟩
  · rintro ⟨k, rfl⟩
    exact quantize_restoreColor hhc k

end Sys2Proof.Machine
end

section
/-! Lookups and the colour commands depend on the HardwareColor alone (`40_quantizer.md` R114; `41_palette_table.md` R124). -/

namespace Sys2Proof.Machine

theorem quantize_withAlpha (c : TrueColor) (a : Byte) : quantize { c with a := a } = quantize c := rfl

/-- A lookup sees a colour's image only (R124). -/
theorem lookupOrInsert_congr {c c' : TrueColor} (h : quantize c' = quantize c) (t : PaletteTable) :
    lookupOrInsert t c' = lookupOrInsert t c := by
  rw [lookupOrInsert, lookupOrInsert, h]

theorem exec_quant_congr {c c' : TrueColor} (h : quantize c' = quantize c) (s : State) :
    exec (.quant c') s = exec (.quant c) s := by
  simp only [exec, execQuant, h]

theorem exec_plki_congr {c c' : TrueColor} (h : quantize c' = quantize c) (s : State) :
    exec (.plki c') s = exec (.plki c) s := by
  simp only [exec, execPlki, lookupOrInsert_congr h]

/-- Settles O9: alpha does not reach the image, on which lookups and both commands depend. -/
theorem alphaIsIgnored : Obligations.AlphaIsIgnored := by
  unfold Obligations.AlphaIsIgnored
  intro c a t s
  have h := quantize_withAlpha c a
  exact ⟨h, lookupOrInsert_congr h t, exec_quant_congr h s, exec_plki_congr h s⟩

end Sys2Proof.Machine
end

section
/-! The acceptance of a command by its word (`30_encoding.md` R84, R93; `70_reset_and_hazards.md` R241), and QUANT
(`40_quantizer.md` R110). -/

namespace Sys2Proof.Machine

/-- The sequencer leaves the command port alone (R241). -/
theorem sequencerStep_port {s t : State} (h : sequencerStep s = .next t) : t.port = s.port := by
  rcases sequencerStep_cases s with ⟨-, ⟨u, hu, e⟩ | ⟨-, e⟩ | ⟨-, e⟩⟩ | ⟨-, e⟩ | ⟨-, e⟩ <;> cases e.symm.trans h
  case inl.inl => rw [visitPixel_frame hu]
  all_goals rfl

/-- Every legal command is taken by its word (R84, R93). -/
theorem takesWord_encode {i : Instr} (hwf : i.wf = true) : TakesWord i (encode i) where
  encoded := rfl
  decoded := decode_encode_of_wf hwf
  runs := fun s r rest hacc hword => by
    rw [step, blockStep_accepts hacc, acceptCommand, hword, decode_encode_of_wf hwf, taken]
  waits := fun s t hpin hbusy h => by
    rw [step, blockStep, hpin, hbusy] at h
    exact sequencerStep_port h

/-- A legal command is taken by the number its word spells. -/
theorem takesWord_of_toNat {i : Instr} {n : Nat} (hwf : i.wf = true) (h : (encode i).toNat = n) :
    TakesWord i (BitVec.ofNat 40 n) := by
  have hword : BitVec.ofNat 40 n = encode i := by rw [← h, BitVec.ofNat_toNat, BitVec.setWidth_eq]
  exact hword ▸ takesWord_encode hwf

/-- The word `{A, B, G, R}` as a number (R80). -/
theorem wordOfTrueColor_toNat (c : TrueColor) :
    (wordOfTrueColor c).toNat = c.a.toNat * 2 ^ 24 + c.b.toNat * 2 ^ 16 + c.g.toNat * 2 ^ 8 + c.r.toNat := by
  simp only [wordOfTrueColor, append_toNat]
  omega

/-- QUANT's word as a number (R85, R100). -/
theorem encode_quant_toNat (c : TrueColor) : (encode (.quant c)).toNat =
    0x01 * 2 ^ 32 + c.a.toNat * 2 ^ 24 + c.b.toNat * 2 ^ 16 + c.g.toNat * 2 ^ 8 + c.r.toNat := by
  rw [encode, append_toNat, wordOfTrueColor_toNat, BitVec.toNat_ofNat]
  omega

/-- Settles O10: the word as a number decodes as QUANT, whose next state is its definition unfolded. -/
theorem quantCommand : Obligations.QuantCommand := by
  unfold Obligations.QuantCommand
  exact ⟨fun c => takesWord_of_toNat (Instr.wf_quant c) (encode_quant_toNat c), fun _ _ => rfl, rfl, rfl, rfl, rfl, rfl⟩

end Sys2Proof.Machine
end

section
/-! What a lookup replies and leaves, said once (`41_palette_table.md` R124), and the slots of a table as the list of R37. -/

namespace Sys2Proof.Machine

/-! ### The reply of one lookup -/

/-- A lookup replies with the colour's slot, with CapacityExceeded, or with the slot of an insertion (R124). -/
theorem lookupReply_cases (t : PaletteTable) (c : TrueColor) :
    (∃ slot, storeRead t.fwd (quantize c).toNat = some slot ∧ lookupReply t c = (some slot, t)) ∨
    (storeRead t.fwd (quantize c).toNat = none ∧ t.nextFree = t.cap ∧ lookupReply t c = (none, t)) ∨
    (storeRead t.fwd (quantize c).toNat = none ∧ t.nextFree ≠ t.cap ∧
      lookupReply t c = (some (t.nextFree.setWidth 8), insertColor t (quantize c))) := by
  rcases lookupOrInsert_cases t c with ⟨slot, hf, e⟩ | ⟨hf, hfull, e⟩ | ⟨hf, hroom, e⟩
  · exact .inl ⟨slot, hf, by rw [lookupReply, e]⟩
  · exact .inr (.inl ⟨hf, hfull, by rw [lookupReply, e]⟩)
  · exact .inr (.inr ⟨hf, hroom, by rw [lookupReply, e]⟩)

theorem lookupOrInsert_of_slot {t : PaletteTable} {c : TrueColor} {slot : Slot}
    (h : storeRead t.fwd (quantize c).toNat = some slot) : lookupOrInsert t c = .hit slot := by
  rw [lookupOrInsert, colorIndex_quantize, h]

theorem lookupOrInsert_of_full {t : PaletteTable} {c : TrueColor} (h : storeRead t.fwd (quantize c).toNat = none)
    (hfull : t.nextFree = t.cap) : lookupOrInsert t c = .capacityExceeded := by
  rw [lookupOrInsert, colorIndex_quantize, h]
  exact if_pos hfull

theorem lookupOrInsert_of_new {t : PaletteTable} {c : TrueColor} (h : storeRead t.fwd (quantize c).toNat = none)
    (hroom : t.nextFree ≠ t.cap) :
    lookupOrInsert t c = .inserted (t.nextFree.setWidth 8) (insertColor t (quantize c)) := by
  rw [lookupOrInsert, colorIndex_quantize, h]
  exact if_neg hroom

theorem lookupReply_of_slot {t : PaletteTable} {c : TrueColor} {slot : Slot}
    (h : storeRead t.fwd (quantize c).toNat = some slot) : lookupReply t c = (some slot, t) := by
  rw [lookupReply, lookupOrInsert_of_slot h]

theorem lookupReply_tableInv {t : PaletteTable} (ht : TableInv t) (c : TrueColor) : TableInv (lookupReply t c).2 := by
  rcases lookupReply_cases t c with ⟨slot, -, e⟩ | ⟨-, -, e⟩ | ⟨hnew, hroom, e⟩ <;> rw [e]
  · exact ht
  · exact ht
  · exact insertColor_tableInv ht hnew hroom

/-- No lookup changes `CAP`. -/
theorem lookupReply_cap (t : PaletteTable) (c : TrueColor) : (lookupReply t c).2.cap = t.cap := by
  rcases lookupReply_cases t c with ⟨slot, -, e⟩ | ⟨-, -, e⟩ | ⟨-, -, e⟩ <;> rw [e]
  rfl

/-! ### A colour keeps its slot -/

/-- A lookup that succeeds leaves the colour with the slot it replied. -/
theorem lookupReply_slot {t : PaletteTable} {c : TrueColor} {slot : Slot} (h : (lookupReply t c).1 = some slot) :
    storeRead (lookupReply t c).2.fwd (quantize c).toNat = some slot := by
  rcases lookupReply_cases t c with ⟨slot', hf, e⟩ | ⟨-, -, e⟩ | ⟨-, -, e⟩ <;> rw [e] at h ⊢ <;> cases h
  · exact hf
  · rw [insertColor_fwd, if_pos rfl]

/-- An entry of `FWD` stays: an insertion writes the entry of a colour that had no slot. -/
theorem lookupReply_keeps_slot {t : PaletteTable} (c : TrueColor) {k : Nat} {slot : Slot}
    (h : storeRead t.fwd k = some slot) : storeRead (lookupReply t c).2.fwd k = some slot := by
  rcases lookupReply_cases t c with ⟨slot', -, e⟩ | ⟨-, -, e⟩ | ⟨hnew, -, e⟩ <;> rw [e]
  · exact h
  · exact h
  · have hk : k ≠ (quantize c).toNat := fun hk => by rw [hk, hnew] at h; cases h
    rw [insertColor_fwd, if_neg hk, h]

theorem lookupAll_keeps_slot {t : PaletteTable} (cs : List TrueColor) {k : Nat} {slot : Slot}
    (h : storeRead t.fwd k = some slot) : storeRead (lookupAll t cs).2.fwd k = some slot := by
  induction cs generalizing t with
  | nil => exact h
  | cons c cs ih => exact ih (lookupReply_keeps_slot c h)

/-- Settles O15: a lookup that succeeds leaves the colour a slot, which no further lookup takes away. -/
theorem repeatedLookupIsIdempotent : Obligations.RepeatedLookupIsIdempotent := by
  unfold Obligations.RepeatedLookupIsIdempotent
  intro t c c' slot h hq
  have hslot := lookupReply_slot h
  rw [← hq] at hslot
  exact ⟨lookupReply_of_slot hslot, fun cs => lookupReply_of_slot (lookupAll_keeps_slot cs hslot)⟩

/-! ### The slots as a list (R37) -/

theorem slotList_length (t : PaletteTable) : (slotList t).length = t.nextFree.toNat := by simp [slotList]

/-- The list of slots reads as `REV`: no entry of it is free. -/
theorem TableInv.slotList_getElem? {t : PaletteTable} (ht : TableInv t) (i : Nat) :
    (slotList t)[i]? = storeRead t.rev i := by
  have hlisted := ht.rev_listed i
  by_cases hi : i < t.nextFree.toNat
  · obtain ⟨hc, hrev⟩ := Option.isSome_iff_exists.1 (hlisted.2 hi)
    simp [slotList, revEntry, hi, hrev]
  · have hnone : storeRead t.rev i = none := Option.not_isSome_iff_eq_none.1 fun h => hi (hlisted.1 h)
    rw [hnone, List.getElem?_eq_none (by rw [slotList_length]; omega)]

/-- The slot of a colour is its place in the list (R33). -/
theorem TableInv.slotList_slot {t : PaletteTable} (ht : TableInv t) {c : TrueColor} {slot : Slot}
    (h : storeRead t.fwd (quantize c).toNat = some slot) : (slotList t)[slot.toNat]? = some (quantize c) := by
  rw [ht.slotList_getElem?]
  exact ((ht.inverse _ (quantize_lt c) slot).1 h).2

/-- A colour with no slot is no entry of `REV` (R33). -/
theorem TableInv.rev_ne_of_new {t : PaletteTable} (ht : TableInv t) {c : TrueColor}
    (hnew : storeRead t.fwd (quantize c).toNat = none) (i : Nat) : storeRead t.rev i ≠ some (quantize c) := by
  intro hrev
  have hi : i < t.nextFree.toNat := (ht.rev_listed i).1 (by rw [hrev]; rfl)
  have hslot : storeRead t.fwd (quantize c).toNat = some (BitVec.ofNat 8 i) := by
    rw [ht.inverse _ (quantize_lt c), ht.ofNat_slot_toNat hi]
    exact ⟨hi, hrev⟩
  rw [hnew] at hslot
  cases hslot

/-- A colour with no slot is not in the list. -/
theorem TableInv.notMem_slotList {t : PaletteTable} (ht : TableInv t) {c : TrueColor}
    (hnew : storeRead t.fwd (quantize c).toNat = none) : quantize c ∉ slotList t := by
  intro hmem
  obtain ⟨i, hi⟩ := List.mem_iff_getElem?.1 hmem
  rw [ht.slotList_getElem?] at hi
  exact ht.rev_ne_of_new hnew i hi

/-- An insertion appends its colour to the list. -/
theorem slotList_insertColor {t : PaletteTable} (ht : TableInv t) {c : TrueColor}
    (hnew : storeRead t.fwd (quantize c).toNat = none) (hroom : t.nextFree ≠ t.cap) :
    slotList (insertColor t (quantize c)) = slotList t ++ [quantize c] := by
  refine List.ext_getElem? fun i => ?_
  rw [(insertColor_tableInv ht hnew hroom).slotList_getElem?, insertColor_rev]
  rcases Nat.lt_trichotomy i t.nextFree.toNat with hi | hi | hi
  · rw [if_neg (Nat.ne_of_lt hi), List.getElem?_append_left (by rwa [slotList_length]), ht.slotList_getElem?]
  · rw [if_pos hi, hi, ← slotList_length, List.getElem?_concat_length]
  · have hnone : storeRead t.rev i = none := by
      rw [← ht.slotList_getElem?, List.getElem?_eq_none (by rw [slotList_length]; omega)]
    rw [if_neg (Nat.ne_of_gt hi), hnone, List.getElem?_eq_none (by simp [slotList_length]; omega)]

/-- Settles O13: each outcome by its equation; a hit is the colour's place in the list of slots, an insertion appends to it. -/
theorem lookupOrInsertProcedure : Obligations.LookupOrInsertProcedure := by
  unfold Obligations.LookupOrInsertProcedure
  intro t c ht
  refine ⟨fun slot h => ⟨lookupOrInsert_of_slot h, ht.slotList_slot h⟩, fun hnew hfull => ?_, fun hnew hroom => ?_⟩
  · exact ⟨lookupOrInsert_of_full hnew hfull, ht.notMem_slotList hnew, by rw [slotList_length, hfull]⟩
  · have hslot := nextFree_slot t ht hroom
    refine ⟨_, _, lookupOrInsert_of_new hnew hroom, hslot, rfl, (nextFree_succ t ht hroom).1, insertColor_fwd t c, ?_,
      ht.notMem_slotList hnew, slotList_insertColor ht hnew hroom, by rw [hslot, slotList_length]⟩
    rw [hslot]
    exact insertColor_rev t (quantize c)

/-- Settles O18: an insertion keeps the invariant, and its colour and its slot had no entry before; the other two outcomes
leave the table as it was. -/
theorem lookupKeepsTableInvariant : Obligations.LookupKeepsTableInvariant := by
  unfold Obligations.LookupKeepsTableInvariant
  intro t c ht
  refine ⟨lookupReply_tableInv ht c, fun hno => ?_, fun slot t' h => ?_⟩
  · cases hl : lookupOrInsert t c with
    | hit slot => rw [lookupReply, hl]
    | inserted slot t' => exact absurd hl (hno slot t')
    | capacityExceeded => rw [lookupReply, hl]
  · obtain ⟨ht', -, -, hslot⟩ := lookupOrInsert_inserted ht h
    refine ⟨fun k hk => ?_, ?_, ht'.nextFree_le_cap⟩
    · obtain ⟨-, hlt, -⟩ := (ht.mem_fwd_iff k slot).1 ((mem_iff_storeRead ht.fwd_wf k slot).2 hk)
      omega
    · rcases lookupOrInsert_cases t c with ⟨_, _, e⟩ | ⟨_, _, e⟩ | ⟨hnew, _, _⟩
      · cases e.symm.trans h
      · cases e.symm.trans h
      · exact ht.rev_ne_of_new hnew

end Sys2Proof.Machine
end

section
/-! Sequences of lookups: the order of first occurrence, and the table that follows it (`41_palette_table.md` R127, R128). -/

namespace Sys2Proof.Machine

/-! ### The order of first occurrence -/

/-- The colours seen so far after one more (R127). -/
def noteColor (seen : List HardwareColor) (q : HardwareColor) : List HardwareColor :=
  if q ∈ seen then seen else seen ++ [q]

theorem noteColor_of_mem {seen : List HardwareColor} {q : HardwareColor} (h : q ∈ seen) : noteColor seen q = seen := if_pos h

theorem noteColor_of_notMem {seen : List HardwareColor} {q : HardwareColor} (h : q ∉ seen) :
    noteColor seen q = seen ++ [q] := if_neg h

theorem firstSeen_cons (seen : List HardwareColor) (q : HardwareColor) (qs : List HardwareColor) :
    firstSeen seen (q :: qs) = firstSeen (noteColor seen q) qs := by
  rw [firstSeen, noteColor]
  split <;> rfl

theorem firstSeen_eq_foldl (seen qs : List HardwareColor) : firstSeen seen qs = qs.foldl noteColor seen := by
  induction qs generalizing seen with
  | nil => rfl
  | cons q qs ih => rw [firstSeen_cons, ih, List.foldl_cons]

theorem prefix_noteColor (seen : List HardwareColor) (q : HardwareColor) : seen <+: noteColor seen q := by
  rw [noteColor]
  split
  · exact List.prefix_rfl
  · exact List.prefix_append seen [q]

theorem mem_noteColor {seen : List HardwareColor} {q q' : HardwareColor} : q' ∈ noteColor seen q ↔ q' ∈ seen ∨ q' = q := by
  by_cases h : q ∈ seen
  · rw [noteColor_of_mem h, or_iff_left_of_imp (· ▸ h)]
  · rw [noteColor_of_notMem h, List.mem_append, List.mem_singleton]

theorem noteColor_nodup {seen : List HardwareColor} (q : HardwareColor) (h : seen.Nodup) : (noteColor seen q).Nodup := by
  by_cases hq : q ∈ seen
  · rwa [noteColor_of_mem hq]
  · rw [noteColor_of_notMem hq, ← List.concat_eq_append]
    exact h.concat hq

/-- Noting a colour leaves what stands before the end of the list. -/
theorem take_noteColor_of_le {seen : List HardwareColor} (q : HardwareColor) {n : Nat} (hn : n ≤ seen.length) :
    (noteColor seen q).take n = seen.take n := by
  rw [noteColor]
  split
  · rfl
  · exact List.take_append_of_le_length hn

/-- The colours already seen stay at the front, in order. -/
theorem prefix_firstSeen (seen qs : List HardwareColor) : seen <+: firstSeen seen qs := by
  induction qs generalizing seen with
  | nil => exact List.prefix_rfl
  | cons q qs ih => exact firstSeen_cons seen q qs ▸ (prefix_noteColor seen q).trans (ih _)

theorem mem_firstSeen {seen qs : List HardwareColor} {q : HardwareColor} : q ∈ firstSeen seen qs ↔ q ∈ seen ∨ q ∈ qs := by
  induction qs generalizing seen with
  | nil => simp [firstSeen]
  | cons q' qs ih => rw [firstSeen_cons, ih, mem_noteColor, List.mem_cons, or_assoc]

theorem firstSeen_nodup {seen : List HardwareColor} (qs : List HardwareColor) (h : seen.Nodup) :
    (firstSeen seen qs).Nodup := by
  induction qs generalizing seen with
  | nil => exact h
  | cons q qs ih => exact firstSeen_cons seen q qs ▸ ih (noteColor_nodup q h)

theorem distinctColors_nodup (cs : List TrueColor) : (distinctColors cs).Nodup := firstSeen_nodup _ List.nodup_nil

/-- The rank of a colour already seen does not change. -/
theorem idxOf_firstSeen {seen : List HardwareColor} {q : HardwareColor} (h : q ∈ seen) (qs : List HardwareColor) :
    (firstSeen seen qs).idxOf q = seen.idxOf q :=
  ((prefix_firstSeen seen qs).idxOf_eq_of_mem h).symm

/-- A new colour takes the next rank. -/
theorem idxOf_noteColor_of_notMem {seen : List HardwareColor} {q : HardwareColor} (h : q ∉ seen) :
    (noteColor seen q).idxOf q = seen.length := by
  rw [noteColor_of_notMem h, List.idxOf_append_of_notMem h, List.idxOf_cons_self, Nat.add_zero]

/-! ### The table that follows a sequence of lookups -/

/-- The reply that R127 gives a colour, `seen` being the colours in order of first occurrence: its rank, or a failure. -/
def rankReply (cap : Capacity) (seen : List HardwareColor) (q : HardwareColor) : Option Slot :=
  if seen.idxOf q < cap.toNat then some (BitVec.ofNat 8 (seen.idxOf q)) else none

/-- The table holds the first `CAP` of the colours seen, in order of first occurrence. -/
structure Follows (t : PaletteTable) (seen : List HardwareColor) : Prop where
  inv : TableInv t
  slots : slotList t = seen.take t.cap.toNat

theorem construct_follows {cap : Capacity} (hcap : cap.toNat ≤ 256) : Follows (construct cap) [] :=
  ⟨construct_tableInv cap hcap, by simp [slotList]⟩

theorem Follows.nextFree {t : PaletteTable} {seen : List HardwareColor} (h : Follows t seen) :
    t.nextFree.toNat = min seen.length t.cap.toNat := by
  rw [← slotList_length, h.slots, List.length_take, Nat.min_comm]

/-- The slot of a colour is its rank. -/
theorem Follows.slot_eq_idxOf {t : PaletteTable} {seen : List HardwareColor} (h : Follows t seen) {c : TrueColor} {slot : Slot}
    (hslot : storeRead t.fwd (quantize c).toNat = some slot) :
    quantize c ∈ seen ∧ seen.idxOf (quantize c) = slot.toNat := by
  have hplace := h.inv.slotList_slot hslot
  have hmem : quantize c ∈ slotList t := List.mem_of_getElem? hplace
  have hpre : slotList t <+: seen := h.slots ▸ List.take_prefix ..
  refine ⟨hpre.subset hmem, ?_⟩
  have hrank := List.getElem?_idxOf hmem
  rw [h.inv.slotList_getElem?] at hplace hrank
  rw [← hpre.idxOf_eq_of_mem hmem]
  exact h.inv.rev_injective hrank hplace

/-- A lookup replies the rank of its colour, or a failure, and the table goes on following the colours seen. -/
theorem Follows.after_lookup {t : PaletteTable} {seen : List HardwareColor} (h : Follows t seen) (c : TrueColor) :
    (lookupReply t c).1 = rankReply t.cap (noteColor seen (quantize c)) (quantize c) ∧
    Follows (lookupReply t c).2 (noteColor seen (quantize c)) := by
  have hnext := h.nextFree
  have hle := h.inv.nextFree_le_cap
  rcases lookupReply_cases t c with ⟨slot, hslot, e⟩ | ⟨hnew, hfull, e⟩ | ⟨hnew, hroom, e⟩ <;> rw [e]
  · obtain ⟨hmem, hrank⟩ := h.slot_eq_idxOf hslot
    have hlt := h.inv.slot_lt hslot
    rw [noteColor_of_mem hmem, rankReply, hrank, if_pos (by omega), BitVec.ofNat_toNat, BitVec.setWidth_eq]
    exact ⟨rfl, h⟩
  · have htake : slotList t = (noteColor seen (quantize c)).take t.cap.toNat := by
      rw [hfull] at hnext
      rw [h.slots, take_noteColor_of_le _ (by omega)]
    have hrank : ¬ (noteColor seen (quantize c)).idxOf (quantize c) < t.cap.toNat := by
      rw [← List.mem_take_iff_idxOf_lt (mem_noteColor.2 (.inr rfl)), ← htake]
      exact h.inv.notMem_slotList hnew
    exact ⟨(if_neg hrank).symm, h.inv, htake⟩
  · obtain ⟨-, hlt⟩ := nextFree_succ t h.inv hroom
    have hall : slotList t = seen := by rw [h.slots, List.take_of_length_le (by omega)]
    have hseen : quantize c ∉ seen := hall ▸ h.inv.notMem_slotList hnew
    have hrank := idxOf_noteColor_of_notMem hseen
    refine ⟨?_, insertColor_tableInv h.inv hnew hroom, ?_⟩
    · rw [rankReply, hrank, if_pos (by omega), show seen.length = t.nextFree.toNat by omega, BitVec.ofNat_toNat]
    · rw [slotList_insertColor h.inv hnew hroom, hall, noteColor_of_notMem hseen, insertColor_cap,
        List.take_of_length_le (by rw [List.length_append, List.length_singleton]; omega)]

/-- A sequence of lookups replies the ranks among all its colours, which the table it leaves follows (R127). -/
theorem Follows.after_lookups {t : PaletteTable} {seen : List HardwareColor} (h : Follows t seen) (cs : List TrueColor) :
    (lookupAll t cs).1 = cs.map (fun c => rankReply t.cap (firstSeen seen (cs.map quantize)) (quantize c)) ∧
    Follows (lookupAll t cs).2 (firstSeen seen (cs.map quantize)) ∧ (lookupAll t cs).2.cap = t.cap := by
  induction cs generalizing t seen with
  | nil => exact ⟨rfl, h, rfl⟩
  | cons c cs ih =>
    obtain ⟨hreply, hnext⟩ := h.after_lookup c
    obtain ⟨hreplies, hlast, hcap⟩ := ih hnext
    have hseen : firstSeen seen ((c :: cs).map quantize) =
        firstSeen (noteColor seen (quantize c)) (cs.map quantize) := firstSeen_cons seen (quantize c) _
    have hmem : quantize c ∈ noteColor seen (quantize c) := mem_noteColor.2 (.inr rfl)
    rw [lookupReply_cap] at hreplies hcap
    rw [lookupAll, hreply, hreplies, hseen, List.map_cons]
    refine ⟨?_, hlast, hcap⟩
    rw [rankReply, rankReply, idxOf_firstSeen hmem]

/-- Lookups depend on the HardwareColors alone. -/
theorem lookupAll_congr (t : PaletteTable) {cs cs' : List TrueColor} (h : cs.map quantize = cs'.map quantize) :
    lookupAll t cs = lookupAll t cs' := by
  induction cs generalizing t cs' with
  | nil => rw [List.map_eq_nil_iff.1 h.symm]
  | cons c cs ih =>
    cases cs' with
    | nil => cases h
    | cons c' cs' =>
      obtain ⟨hq, hqs⟩ := List.cons.inj h
      have hreply : lookupReply t c = lookupReply t c' := by rw [lookupReply, lookupReply, lookupOrInsert_congr hq]
      rw [lookupAll, lookupAll, hreply, ih _ hqs]

/-- Settles O16: from an empty table the table follows the colours in order of first occurrence; a lookup sees its colour's
image only. -/
theorem lookupsAreDeterminedByFirstOccurrence : Obligations.LookupsAreDeterminedByFirstOccurrence := by
  unfold Obligations.LookupsAreDeterminedByFirstOccurrence
  refine ⟨fun cap cs hcap => ?_, fun t cs cs' h => lookupAll_congr t h⟩
  obtain ⟨hreplies, hlast, hlastcap⟩ := (construct_follows hcap).after_lookups cs
  rw [construct_cap] at hlastcap
  have hnext := hlast.nextFree
  rw [hlastcap] at hnext
  refine ⟨hreplies, hnext, fun j d hj hd => ?_⟩
  rw [← hlast.inv.slotList_getElem?, hlast.slots, hlastcap, List.getElem?_take, if_pos hj]
  exact hd

/-! ### The first lookup that fails -/

/-- The reply of the lookup at place `n` of a sequence from an empty table. -/
theorem lookupAll_construct_getElem? {cap : Capacity} (hcap : cap.toNat ≤ 256) {cs : List TrueColor} {n : Nat} {c : TrueColor}
    (hn : cs[n]? = some c) :
    (lookupAll (construct cap) cs).1[n]? = some (rankReply cap (distinctColors cs) (quantize c)) := by
  rw [((construct_follows hcap).after_lookups cs).1, List.getElem?_map, hn]
  rfl

/-- A lookup fails exactly when its colour's rank is `cap` or more. -/
theorem lookupAll_construct_fails_iff {cap : Capacity} (hcap : cap.toNat ≤ 256) {cs : List TrueColor} {n : Nat}
    {c : TrueColor} (hn : cs[n]? = some c) :
    (lookupAll (construct cap) cs).1[n]? = some none ↔ cap.toNat ≤ (distinctColors cs).idxOf (quantize c) := by
  simp [lookupAll_construct_getElem? hcap hn, rankReply]

/-- The colours before place `n` are the first of all of them; the colour at that place comes next. -/
theorem prefix_distinctColors {cs : List TrueColor} {n : Nat} {c : TrueColor} (hn : cs[n]? = some c) :
    noteColor (distinctColors (cs.take n)) (quantize c) <+: distinctColors cs := by
  obtain ⟨hlt, rfl⟩ := List.getElem?_eq_some_iff.1 hn
  have hsplit : cs.map quantize = (cs.take n).map quantize ++ quantize cs[n] :: (cs.drop (n + 1)).map quantize := by
    rw [← List.map_cons, ← List.map_append, List.cons_getElem_drop_succ, List.take_append_drop]
  rw [distinctColors, distinctColors, hsplit, firstSeen_eq_foldl, firstSeen_eq_foldl, List.foldl_append, List.foldl_cons,
    ← firstSeen_eq_foldl _ ((cs.drop (n + 1)).map quantize)]
  exact prefix_firstSeen _ _

theorem mem_distinctColors_take {cs : List TrueColor} {n : Nat} {q : HardwareColor} :
    q ∈ distinctColors (cs.take n) ↔ ∃ k c, k < n ∧ cs[k]? = some c ∧ quantize c = q := by
  rw [distinctColors, mem_firstSeen, or_iff_right List.not_mem_nil, List.mem_map]
  constructor
  · rintro ⟨c, hc, rfl⟩
    obtain ⟨k, hk⟩ := List.mem_iff_getElem?.1 hc
    rw [List.getElem?_take, Option.ite_none_right_eq_some] at hk
    exact ⟨k, c, hk.1, hk.2, rfl⟩
  · rintro ⟨k, c, hkn, hk, rfl⟩
    refine ⟨c, List.mem_iff_getElem?.2 ⟨k, ?_⟩, rfl⟩
    rw [List.getElem?_take, if_pos hkn, hk]

/-- The rank of the colour at place `n` is the one it had before, or the number of colours before it. -/
theorem idxOf_distinctColors {cs : List TrueColor} {n : Nat} {c : TrueColor} (hn : cs[n]? = some c) :
    (distinctColors cs).idxOf (quantize c) = (distinctColors (cs.take n)).idxOf (quantize c) := by
  rw [← (prefix_distinctColors hn).idxOf_eq_of_mem (mem_noteColor.2 (.inr rfl))]
  by_cases hmem : quantize c ∈ distinctColors (cs.take n)
  · rw [noteColor_of_mem hmem]
  · rw [idxOf_noteColor_of_notMem hmem, List.idxOf_of_notMem hmem]

/-- The ranks of all colours before place `n` are below `cap` exactly when those colours are at most `cap`. -/
theorem ranks_lt_iff_length_le {cs : List TrueColor} {n cap : Nat} {c : TrueColor} (hn : cs[n]? = some c) :
    (∀ q ∈ distinctColors (cs.take n), (distinctColors cs).idxOf q < cap) ↔ (distinctColors (cs.take n)).length ≤ cap := by
  have hpre := (prefix_noteColor _ _).trans (prefix_distinctColors hn)
  constructor
  · intro h
    by_contra hgt
    have hcap : cap < (distinctColors (cs.take n)).length := by omega
    have hlt := h _ (List.getElem_mem hcap)
    rw [← hpre.idxOf_eq_of_mem (List.getElem_mem hcap), (distinctColors_nodup _).idxOf_getElem] at hlt
    omega
  · intro h q hq
    rw [← hpre.idxOf_eq_of_mem hq]
    exact (List.idxOf_lt_length_iff.2 hq).trans_le h

/-- No lookup before place `n` fails exactly when the colours before it are at most `cap`. -/
theorem lookupAll_construct_none_fails_iff {cap : Capacity} (hcap : cap.toNat ≤ 256) {cs : List TrueColor} {n : Nat}
    {c : TrueColor} (hn : cs[n]? = some c) :
    (∀ k, k < n → (lookupAll (construct cap) cs).1[k]? ≠ some none) ↔ (distinctColors (cs.take n)).length ≤ cap.toNat := by
  rw [← ranks_lt_iff_length_le hn]
  constructor
  · intro h q hq
    obtain ⟨k, d, hkn, hk, rfl⟩ := mem_distinctColors_take.1 hq
    exact Nat.lt_of_not_le fun hle => h k hkn ((lookupAll_construct_fails_iff hcap hk).2 hle)
  · intro h k hkn hfail
    obtain ⟨hlt, -⟩ := List.getElem?_eq_some_iff.1 hn
    have hk : cs[k]? = some cs[k] := List.getElem?_eq_getElem (hkn.trans hlt)
    have hrank := h _ (mem_distinctColors_take.2 ⟨k, cs[k], hkn, hk, rfl⟩)
    exact Nat.not_le_of_lt hrank ((lookupAll_construct_fails_iff hcap hk).1 hfail)

/-- The rank of a colour among the colours before it is `cap` or more, those being at most `cap`, exactly when they are `cap`
and it is new. -/
theorem cap_le_idxOf_and_length_le_iff (seen : List HardwareColor) (q : HardwareColor) (cap : Nat) :
    cap ≤ seen.idxOf q ∧ seen.length ≤ cap ↔ seen.length = cap ∧ q ∉ seen := by
  rw [← List.idxOf_eq_length_iff]
  have := seen.idxOf_le_length (a := q)
  omega

/-- Settles O17: a lookup fails exactly when its colour's rank is `cap` or more; before the first that fails come `cap`
colours, and its own is none of them. -/
theorem capacityBoundary : Obligations.CapacityBoundary := by
  unfold Obligations.CapacityBoundary
  intro cap cs n c hcap hn
  refine ⟨fun j hj hlt => ?_, ?_⟩
  · obtain ⟨hjlen, hjc⟩ := List.getElem?_eq_some_iff.1 hj
    have hrank : (distinctColors cs).idxOf (quantize c) = j := by rw [← hjc, (distinctColors_nodup cs).idxOf_getElem]
    refine ⟨BitVec.ofNat 8 j, ?_, ?_⟩
    · rw [lookupAll_construct_getElem? hcap hn, rankReply, hrank, if_pos hlt]
    · rw [BitVec.toNat_ofNat, Nat.mod_eq_of_lt (by omega)]
  · rw [lookupAll_construct_fails_iff hcap hn, lookupAll_construct_none_fails_iff hcap hn, idxOf_distinctColors hn,
      cap_le_idxOf_and_length_le_iff]

end Sys2Proof.Machine
end

section
/-! The serialization slot by slot (`41_palette_table.md` R130), and what the host reads of it (R131 to R133). -/

namespace Sys2Proof.Machine

/-! ### The value of a slot -/

theorem slotValue_of_listed {t : PaletteTable} {i : Nat} {hc : HardwareColor} (hi : i < t.nextFree.toNat)
    (hrev : storeRead t.rev i = some hc) : slotValue t i = hc := by
  rw [slotValue, if_pos hi, revEntry, hrev, Option.getD_some]

theorem slotValue_of_free {t : PaletteTable} {i : Nat} (hi : t.nextFree.toNat ≤ i) : slotValue t i = 0#16 :=
  if_neg (Nat.not_lt.2 hi)

/-- Every slot serializes as a HardwareColor with bit 15 zero (R81). -/
theorem TableInv.slotValue_lt {t : PaletteTable} (ht : TableInv t) (i : Nat) : (slotValue t i).toNat < 32768 := by
  rcases Nat.lt_or_ge i t.nextFree.toNat with hi | hi
  · obtain ⟨hc, hrev⟩ := Option.isSome_iff_exists.1 ((ht.rev_listed i).2 hi)
    rw [slotValue_of_listed hi hrev]
    exact ht.rev_color i hc hrev
  · rw [slotValue_of_free hi]
    exact Nat.zero_lt_succ _

/-! ### The layout -/

/-- The serialization lists exactly the offsets below `2 × CAP` (R130). -/
theorem serialize_listed (t : PaletteTable) (j : Nat) : (storeRead (serialize t) j).isSome = true ↔ j < 2 * t.cap.toNat := by
  rw [storeRead_serialize]
  split <;> simp [*]

/-- A space in canonical form that lists exactly the keys below `n` has `n` entries. -/
theorem store_length_of_listed {α : Type} {m : Store α} {n : Nat} (hm : storeWf m = true)
    (h : ∀ j, (storeRead m j).isSome = true ↔ j < n) : m.length = n := by
  have hnodup : (m.map Prod.fst).Nodup := by
    refine (storeWfFrom_nodup hm).map_on ?_
    rintro ⟨k, v⟩ hv ⟨_, v'⟩ hv' rfl
    rw [mem_iff_storeRead hm] at hv hv'
    rw [Option.some.inj (hv.symm.trans hv')]
  have hperm : (m.map Prod.fst).Perm (List.range n) :=
    (List.perm_ext_iff_of_nodup hnodup List.nodup_range).2 fun j => by
      simp [mem_iff_storeRead hm, ← h, Option.isSome_iff_exists]
  simpa using hperm.length_eq

/-- Settles O19: the two bytes of a slot are those of its value, and the canonical form lists each of the `2 × CAP` once. -/
theorem serializeLayout : Obligations.SerializeLayout := by
  unfold Obligations.SerializeLayout
  intro t
  refine ⟨serialize_listed t, fun i hc hi hn hrev => ?_, fun i hi hn => ?_,
    store_length_of_listed (serialize_wf t) (serialize_listed t)⟩
  · rw [← slotValue_of_listed hn hrev]
    exact storeRead_serialize_slot t hi
  · have hbytes := storeRead_serialize_slot t hi
    rwa [slotValue_of_free hn] at hbytes

/-! ### Reading a slot back -/

/-- The two bytes of a 16-bit value, low byte first, read as the value (R57). -/
theorem memRead_two {m : Memory} {addr : Nat} {v : BitVec 16} (hlo : storeRead m addr = some (v.extractLsb' 0 8))
    (hhi : storeRead m (addr + 1) = some (v.extractLsb' 8 8)) : memRead m addr 2 = some v.toNat := by
  have := v.isLt
  simp only [memRead, hlo, hhi, extract_toNat, Option.some.injEq]
  omega

theorem memRead_serialize_slot (t : PaletteTable) {i : Nat} (hi : i < t.cap.toNat) :
    memRead (serialize t) (2 * i) 2 = some (slotValue t i).toNat :=
  memRead_two (storeRead_serialize_slot t hi).1 (storeRead_serialize_slot t hi).2

/-- What PSER leaves: the serialization, its length, and the bytes valid (R131). -/
theorem exec_pser (s : State) : exec .pser s = .next
    { s with
      pbuf := serialize s.table
      plen := BitVec.ofNat 10 (2 * s.table.cap.toNat)
      status := { s.status with err := .ok, pvalid := true }
      responses := s.responses ++ [{ code := .ok, value := 0#16 }] } := rfl

/-- After a PSER of an idle block the host reads every slot. -/
theorem hostMemRead_slot_of_pser {s t : State} (h : exec .pser s = .next t) (hb : s.status.busy = false) {i : Nat}
    (hi : i < s.table.cap.toNat) : hostMemRead .pbuf (2 * i) 2 t = memRead t.pbuf (2 * i) 2 := by
  cases (exec_pser s).symm.trans h
  have hlen := serialize_plen_toNat s.table.cap
  exact if_pos (by simp only [readableLength, hb, Bool.not_true, Bool.or_self, Bool.false_eq_true, if_false]; omega)

/-- Settles O21: each slot's two bytes read as its value, in memory and through the host's port. -/
theorem serializationRoundTrip : Obligations.SerializationRoundTrip := by
  unfold Obligations.SerializationRoundTrip
  intro s hs
  refine ⟨_, exec_pser s, rfl, fun i hc hi hrev => ?_, fun i hn hi => ?_⟩
  · have hcap : i < s.table.cap.toNat := hi.trans_le hs.nextFree_le_cap
    have hread := memRead_serialize_slot s.table hcap
    rw [slotValue_of_listed hi hrev] at hread
    exact ⟨hread, fun hb => (hostMemRead_slot_of_pser (exec_pser s) hb hcap).trans hread⟩
  · have hread := memRead_serialize_slot s.table hi
    rw [slotValue_of_free hn] at hread
    exact ⟨hread, fun hb => (hostMemRead_slot_of_pser (exec_pser s) hb hi).trans hread⟩

/-! ### Commands that leave the table (R133) -/

theorem exec_table_of_leavesTable {i : Instr} {s t : State} (hi : LeavesTable i s) (h : exec i s = .next t) :
    t.table = s.table := by
  cases i with
  | quant c => cases h; rfl
  | pnew cap => exact hi.elim
  | plki c =>
    rcases execPlki_cases c s with ⟨slot, -, e⟩ | ⟨slot, u, hl, -⟩ | ⟨-, e⟩
    · cases e.symm.trans h; rfl
    · exact absurd hl (hi slot u)
    · cases e.symm.trans h; rfl
  | pser => cases h; rfl
  | encode w h' =>
    rcases execEncode_cases w h' s with ⟨-, e⟩ | ⟨hd, -⟩
    · cases e.symm.trans h; rfl
    · cases hd.symm.trans hi

theorem runCommands_table_of_allLeaveTable {is : List Instr} {s t : State} (his : AllLeaveTable is s)
    (h : runCommands is s = .next t) : t.table = s.table := by
  induction is generalizing s with
  | nil => cases h; rfl
  | cons i is ih =>
    obtain ⟨hi, hrest⟩ := his
    rw [runCommands] at h
    cases he : exec i s with
    | next u =>
      rw [he] at h
      exact (ih (hrest u he) h).trans (exec_table_of_leavesTable hi he)
    | fault e => rw [he] at h; cases h
    | refused e => rw [he] at h; cases h

/-- Settles O22: PSER writes what the table says, and the commands between leave the table. -/
theorem repeatedPserWritesTheSame : Obligations.RepeatedPserWritesTheSame := by
  unfold Obligations.RepeatedPserWritesTheSame
  intro is s t u h his hrun
  have htable : u.table = t.table := runCommands_table_of_allLeaveTable his hrun
  cases (exec_pser s).symm.trans h
  exact ⟨_, exec_pser u, congrArg serialize htable, congrArg (fun p => BitVec.ofNat 10 (2 * p.cap.toNat)) htable, htable⟩

end Sys2Proof.Machine
end

section
/-! The commands of the palette table: PNEW, PLKI and PSER (`41_palette_table.md` R121, R122, R125, R131). -/

namespace Sys2Proof.Machine

/-- Settles O11: neither map of a constructed table lists anything. -/
theorem constructGivesEmptyTable : Obligations.ConstructGivesEmptyTable := by
  unfold Obligations.ConstructGivesEmptyTable
  exact ⟨fun cap => ⟨construct_cap cap, construct_nextFree cap, fun c => storeRead_nil c.toNat, storeRead_nil⟩,
    construct_tableInv, rfl⟩

/-! ### PNEW -/

/-- PNEW's word as a number (R86, R100). -/
theorem encode_pnew_toNat (cap : Capacity) : (encode (.pnew cap)).toNat = 0x02 * 2 ^ 32 + cap.toNat := by
  rw [encode_pnew_eq, append_toNat, append_toNat, BitVec.toNat_ofNat, BitVec.toNat_zero]
  omega

/-- A capacity above `CAP_MAX` makes an illegal word (R92). -/
theorem decode_pnew_illegal {cap : Capacity} (h : 256 < cap.toNat) :
    ∃ why, decode (BitVec.ofNat 40 (0x02 * 2 ^ 32 + cap.toNat)) = .illegal why := by
  have hcap := cap.isLt
  have hword : (BitVec.ofNat 40 (0x02 * 2 ^ 32 + cap.toNat)).toNat = 0x02 * 2 ^ 32 + cap.toNat := by
    rw [BitVec.toNat_ofNat]
    omega
  refine (decode_illegal_iff _).2 (.inr (.inl ?_))
  rw [hword]
  omega

/-- What PNEW leaves: an empty table and both outputs empty (R121). -/
theorem exec_pnew (cap : Capacity) (s : State) : exec (.pnew cap) s = .next
    { s with
      table := { cap := cap, nextFree := 0#9, fwd := [], rev := [] }, w := 0#16, h := 0#16, ocnt := 0#32, out := []
      plen := 0#10, pbuf := []
      status := { s.status with err := .ok, ovalid := false, pvalid := false }
      responses := s.responses ++ [{ code := .ok, value := 0#16 }] } := rfl

/-- A table of capacity 0 is full when it is empty. -/
theorem lookupOrInsert_construct_zero (c : TrueColor) : lookupOrInsert (construct 0#9) c = .capacityExceeded :=
  lookupOrInsert_of_full (storeRead_nil _) rfl

/-- Settles O12: the word as a number decodes as PNEW up to capacity 256; of an idle block only `CAP`, `RESULT` and the host's side
differ from the reset state then. -/
theorem pnewCommand : Obligations.PnewCommand := by
  unfold Obligations.PnewCommand
  refine ⟨fun cap hcap => ?_, fun cap => decode_pnew_illegal, exec_pnew, fun cap s hbusy hpos => ?_,
    lookupOrInsert_construct_zero, rfl⟩
  · exact takesWord_of_toNat (by rw [Instr.wf_pnew, decide_eq_true hcap]) (encode_pnew_toNat cap)
  · simp only [exec_pnew, hbusy, hpos]
    rfl

/-! ### PLKI -/

/-- PLKI's word as a number (R85, R100). -/
theorem encode_plki_toNat (c : TrueColor) : (encode (.plki c)).toNat =
    0x03 * 2 ^ 32 + c.a.toNat * 2 ^ 24 + c.b.toNat * 2 ^ 16 + c.g.toNat * 2 ^ 8 + c.r.toNat := by
  rw [encode, append_toNat, wordOfTrueColor_toNat, BitVec.toNat_ofNat]
  omega

theorem exec_plki_of_slot {c : TrueColor} {s : State} {slot : Slot}
    (h : storeRead s.table.fwd (quantize c).toNat = some slot) :
    exec (.plki c) s = .next (respond .ok (slot.setWidth 16) { s with result := slot.setWidth 16 }) := by
  rw [exec, execPlki, lookupOrInsert_of_slot h]

theorem exec_plki_of_full {c : TrueColor} {s : State} (h : storeRead s.table.fwd (quantize c).toNat = none)
    (hfull : s.table.nextFree = s.table.cap) : exec (.plki c) s = .next (onlyCode .capacityExceeded s) := by
  rw [exec, execPlki, lookupOrInsert_of_full h hfull]
  rfl

theorem exec_plki_of_new {c : TrueColor} {s : State} (h : storeRead s.table.fwd (quantize c).toNat = none)
    (hroom : s.table.nextFree ≠ s.table.cap) :
    exec (.plki c) s = .next (respond .ok ((s.table.nextFree.setWidth 8).setWidth 16)
      (dropPalette
        { s with
          table := insertColor s.table (quantize c), result := (s.table.nextFree.setWidth 8).setWidth 16 })) := by
  rw [exec, execPlki, lookupOrInsert_of_new h hroom]

/-- The slot of an insertion answers as `NEXT_FREE`, which fits it (R82, R125). -/
theorem nextFree_slot_setWidth {t : PaletteTable} (ht : TableInv t) (hroom : t.nextFree ≠ t.cap) :
    (t.nextFree.setWidth 8).setWidth 16 = t.nextFree.setWidth 16 := by
  rw [← BitVec.ofNat_toNat 16 (t.nextFree.setWidth 8), nextFree_slot t ht hroom, BitVec.ofNat_toNat]

/-- Settles O14: PLKI's equation for each outcome of its lookup. -/
theorem plkiCommand : Obligations.PlkiCommand := by
  unfold Obligations.PlkiCommand
  refine ⟨fun c => takesWord_of_toNat (Instr.wf_plki c) (encode_plki_toNat c), fun c s slot h => exec_plki_of_slot h,
    fun c s h hfull => exec_plki_of_full h hfull, fun c s hs h hroom => ?_, fun c cap s hcap ht => ?_⟩
  · rw [exec_plki_of_new h hroom, nextFree_slot_setWidth hs hroom, ← colorIndex_quantize c]
    rfl
  · have hnew : storeRead s.table.fwd (quantize c).toNat = none := by rw [ht, construct_fwd, storeRead_nil]
    have hroom : s.table.nextFree ≠ s.table.cap := by
      rw [ht, construct_nextFree, construct_cap]
      rintro rfl
      exact absurd hcap (by decide)
    refine ⟨_, exec_plki_of_new hnew hroom, ?_, rfl⟩
    rw [respond_result, dropPalette_result, ht]
    rfl

/-! ### PSER -/

/-- Bit 7 of the high byte of a slot is bit 15 of its HardwareColor, which is zero (R81). -/
theorem serialize_odd_bit7 {t : PaletteTable} (ht : TableInv t) {i : Nat} {b : Byte}
    (h : storeRead (serialize t) (2 * i + 1) = some b) : b.getLsbD 7 = false := by
  have hi : i < t.cap.toNat := by
    have := (serialize_listed t (2 * i + 1)).1 (by rw [h]; rfl)
    omega
  cases (storeRead_serialize_slot t hi).2.symm.trans h
  rw [BitVec.getLsbD_extractLsb']
  exact Nat.testBit_lt_two_pow (ht.slotValue_lt i)

/-- No byte of a palette buffer stands at or past `2 × CAP` (R36). -/
theorem PaletteInv.pbuf_none {s : State} (hs : PaletteInv s) {j : Nat} (hj : 2 * s.table.cap.toNat ≤ j) :
    storeRead s.pbuf j = none := by
  have hplen : s.plen.toNat ≤ 2 * s.table.cap.toNat := by
    cases hv : s.status.pvalid with
    | true => exact (hs.valid hv).1.le
    | false => rw [hs.invalid hv]; exact Nat.zero_le _
  refine Option.not_isSome_iff_eq_none.1 fun h => ?_
  have := (hs.pbuf_listed j).1 h
  omega

/-- Settles O20: PSER's definition unfolded; a serialization has no byte past its length, and a palette buffer had none there. -/
theorem pserCommand : Obligations.PserCommand := by
  unfold Obligations.PserCommand
  refine ⟨takesWord_encode Instr.wf_pser, exec_pser, fun s => serialize_plen_toNat s.table.cap,
    fun t i b ht h => serialize_odd_bit7 ht h, fun s j _ _ hs hj => ?_⟩
  rw [hs.pbuf_none hj, storeRead_serialize, if_neg (by omega)]

end Sys2Proof.Machine
end

section
/-! The loop nest of R150 in closed form: rank `k` of the tile walk is the position `(x(k), y(k))` (`42_tile_encoder.md` R155,
R160). -/

namespace Sys2Proof.Machine

/-- Settles O34: `advance_posValue`, with the number of pixels written as the rule writes it. -/
theorem advanceAddsOneInMixedRadix : Obligations.AdvanceAddsOneInMixedRadix := by
  unfold Obligations.AdvanceAddsOneInMixedRadix
  intro w h p hr hc
  rw [Nat.mul_assoc]
  exact advance_posValue w h p hr hc

/-! ### Nested loops -/

/-- Two nested loops, the inner one of `m` rounds, are one loop over the quotients and remainders by `m`. -/
theorem flatMap_map_range {α : Type} (f : Nat → Nat → α) (n : Nat) {m : Nat} (hm : 0 < m) :
    ((List.range n).flatMap fun i => (List.range m).map (f i)) =
      (List.range (n * m)).map fun k => f (k / m) (k % m) := by
  induction n with
  | zero => simp
  | succ n ih =>
    rw [List.range_succ, List.flatMap_append, ih, Nat.succ_mul, List.range_add, List.map_append, List.flatMap_singleton,
      List.map_map]
    refine congrArg _ (List.map_congr_left fun j hj => ?_)
    have hj : j < m := List.mem_range.1 hj
    rw [Function.comp_apply, Nat.mul_comm n, Nat.mul_add_div hm, Nat.div_eq_of_lt hj, Nat.add_zero, Nat.mul_add_mod,
      Nat.mod_eq_of_lt hj]

/-- The positions of one tile, row-major (R150). -/
theorem tilePositions_eq (trow tcol : Nat) :
    tilePositions trow tcol = (List.range 64).map fun k => (tcol * 8 + k % 8, trow * 8 + k / 8) :=
  flatMap_map_range (fun srow scol => (tcol * 8 + scol, trow * 8 + srow)) 8 (Nat.zero_lt_succ 7)

/-- The loop nest visits position `(x(k), y(k))` at rank `k` (R160). -/
theorem walkOrder_eq (w h : Dim) :
    walkOrder w h = (List.range (64 * (tileCount w * tileCount h))).map fun k => (rankX w k, rankY w k) := by
  rcases Nat.eq_zero_or_pos (tileCount w) with hw | hw
  · simp [walkOrder, hw]
  have hcols : ∀ trow, ((List.range (tileCount w)).flatMap fun tcol => tilePositions trow tcol) =
      (List.range (tileCount w * 64)).map fun k => (k / 64 * 8 + k % 64 % 8, trow * 8 + k % 64 / 8) := fun trow => by
    simp only [tilePositions_eq]
    exact flatMap_map_range (fun tcol k => (tcol * 8 + k % 8, trow * 8 + k / 8)) _ (Nat.zero_lt_succ 63)
  simp only [walkOrder, hcols]
  rw [flatMap_map_range (fun trow k => (k / 64 * 8 + k % 64 % 8, trow * 8 + k % 64 / 8)) _ (by omega : 0 < tileCount w * 64),
    show tileCount h * (tileCount w * 64) = 64 * (tileCount w * tileCount h) by ring]
  refine List.map_congr_left fun k _ => ?_
  rw [rankX, rankY, Nat.div_div_eq_div_mul, Nat.mul_comm 64, Nat.mod_mul_left_mod, Nat.mod_mul_left_div_self]

/-! ### Rank and position -/

/-- A position's tile, row and column in the tile make up its rank. -/
theorem rankOf_rank (w : Dim) (k : Nat) : rankOf w (rankX w k) (rankY w k) = k := by
  have htile := Nat.div_add_mod' (k / 64) (tileCount w)
  have hx : rankX w k / 8 = k / 64 % tileCount w ∧ rankX w k % 8 = k % 8 := by rw [rankX]; omega
  have hy : rankY w k / 8 = k / 64 / tileCount w ∧ rankY w k % 8 = k % 64 / 8 := by rw [rankY]; omega
  rw [rankOf, hx.1, hx.2, hy.1, hy.2, htile]
  omega

/-- The position of the pixel in row `srow` and column `scol` of a tile. -/
theorem rank_of_tile (w : Dim) (tile : Nat) {srow scol : Nat} (hr : srow < 8) (hc : scol < 8) :
    rankX w (64 * tile + 8 * srow + scol) = tile % tileCount w * 8 + scol ∧
    rankY w (64 * tile + 8 * srow + scol) = tile / tileCount w * 8 + srow := by
  have htile : (64 * tile + 8 * srow + scol) / 64 = tile := by omega
  rw [rankX, rankY, htile]
  omega

/-- The rank of a position whose column is in the grid leads back to it. -/
theorem rank_rankOf {w : Dim} {x : Nat} (hx : x / 8 < tileCount w) (y : Nat) :
    rankX w (rankOf w x y) = x ∧ rankY w (rankOf w x y) = y := by
  have hk : rankOf w x y = 64 * (y / 8 * tileCount w + x / 8) + 8 * (y % 8) + x % 8 := by rw [rankOf]; ring
  have hcol : (y / 8 * tileCount w + x / 8) % tileCount w = x / 8 := by rw [Nat.mul_add_mod', Nat.mod_eq_of_lt hx]
  have hrow : (y / 8 * tileCount w + x / 8) / tileCount w = y / 8 := by
    rw [Nat.mul_comm, Nat.mul_add_div (Nat.zero_lt_of_lt hx), Nat.div_eq_of_lt hx, Nat.add_zero]
  obtain ⟨ex, ey⟩ := rank_of_tile w (y / 8 * tileCount w + x / 8) (Nat.mod_lt y (by omega)) (Nat.mod_lt x (by omega))
  rw [hk, ex, ey, hcol, hrow]
  omega

section
variable {w h : Dim} (hw : w.toNat % 8 = 0) (hh : h.toNat % 8 = 0)
include hw hh

theorem walkOrder_getElem? {k : Nat} (hk : k < w.toNat * h.toNat) : (walkOrder w h)[k]? = some (rankX w k, rankY w k) := by
  rw [pixels_eq_tiles hw hh] at hk
  rw [walkOrder_eq, List.getElem?_map, List.getElem?_range hk, Option.map_some]

/-- Every rank below `W × H` names a pixel of the grid. -/
theorem rank_lt {k : Nat} (hk : k < w.toNat * h.toNat) : rankX w k < w.toNat ∧ rankY w k < h.toNat := by
  rw [pixels_eq_tiles hw hh] at hk
  have hpos : 0 < tileCount w := Nat.pos_of_ne_zero fun e => by simp [e] at hk
  have hcol : k / 64 % tileCount w < tileCount w := Nat.mod_lt _ hpos
  have hrow : k / 64 / tileCount w < tileCount h := Nat.div_lt_of_lt_mul (Nat.div_lt_of_lt_mul hk)
  simp only [rankX, rankY, tileCount, Config.ctq_tile] at hcol hrow ⊢
  omega

/-- Every pixel of the grid has a rank below `W × H`. -/
theorem rankOf_lt {x y : Nat} (hx : x < w.toNat) (hy : y < h.toNat) : rankOf w x y < w.toNat * h.toNat := by
  have htile := tile_lt (trow := y / 8) (tcol := x / 8) (tw := tileCount w) (th := tileCount h)
    (by rw [tileCount, Config.ctq_tile]; omega) (by rw [tileCount, Config.ctq_tile]; omega)
  rw [pixels_eq_tiles hw hh, rankOf]
  omega

end

/-- Settles O25: the loop nest in closed form; each rank is read off its position's tile, row and column and back. -/
theorem traversalRankIsABijection : Obligations.TraversalRankIsABijection := by
  unfold Obligations.TraversalRankIsABijection
  intro w h hw hh
  refine ⟨walkOrder_length hw hh, fun k hk => ?_, fun x y hx hy => ?_⟩
  · exact ⟨walkOrder_getElem? hw hh hk, (rank_lt hw hh hk).1, (rank_lt hw hh hk).2, rankOf_rank w k⟩
  · have hcol : x / 8 < tileCount w := by rw [tileCount, Config.ctq_tile]; omega
    exact ⟨rankOf_lt hw hh hx hy, rank_rankOf hcol y⟩

end Sys2Proof.Machine
end

section
/-! An ENCODE at the step level (`42_tile_encoder.md` R152 to R158): its start, its PIXSTEPs rank by rank, and its end,
against the walk of the command level (R159). -/

namespace Sys2Proof.Machine

/-! ### Visiting a pixel the grid defines -/

/-- A lookup that replies a slot appends it, in the table that lookup leaves (R154). -/
theorem visitPixel_of_slot {x y : Nat} {s : State} {c : TrueColor} {slot : Slot} (hg : gridRead s.grid x y = some c)
    (hl : (lookupReply s.table c).1 = some slot) :
    visitPixel x y s = .appended (appendIndex slot { s with table := (lookupReply s.table c).2 }) := by
  simp only [visitPixel, hg]
  rw [lookupReply] at hl ⊢
  cases e : lookupOrInsert s.table c <;> rw [e] at hl <;> cases hl <;> rfl

theorem visitPixel_of_full {x y : Nat} {s : State} {c : TrueColor} (hg : gridRead s.grid x y = some c)
    (hl : (lookupReply s.table c).1 = none) : visitPixel x y s = .full := by
  simp only [visitPixel, hg]
  rw [lookupReply] at hl
  cases e : lookupOrInsert s.table c <;> rw [e] at hl <;> cases hl

/-! ### The sequencer's steps, one equation each -/

/-- In phase RUN a step of the block is the sequencer's (R158). -/
theorem fineStep_busy {s : State} (hpin : s.resetPin = false) (hb : s.status.busy = true) : fineStep s = sequencerStep s := by
  rw [fineStep, blockStep, hpin, hb]
  rfl

theorem sequencerStep_of_lt {s : State} (h : s.ocnt.toNat < pixelCount s) : sequencerStep s = pixStep s := if_pos h

theorem sequencerStep_of_eq {s : State} (h : s.ocnt.toNat = pixelCount s) : sequencerStep s = .next (completeStep s) := by
  rw [sequencerStep, if_neg (by omega), if_pos h]

theorem pixStep_of_appended {s s' : State} (h : visitPixel (pixelX s.pos) (pixelY s.pos) s = .appended s') :
    pixStep s = .next { s' with pos := advance s.w s.h s.pos } := by
  rw [pixStep, h]

/-- The abort leaves the job discarded (R157, R193). -/
theorem pixStep_of_full {s : State} (h : visitPixel (pixelX s.pos) (pixelY s.pos) s = .full) :
    pixStep s = .next (jobDiscarded s) := by
  rw [pixStep, h]
  rfl

theorem pixStep_of_noPixel {s : State} (h : visitPixel (pixelX s.pos) (pixelY s.pos) s = .noPixel) :
    pixStep s = .refused (.gridUndefined (pixelX s.pos) (pixelY s.pos)) := by
  rw [pixStep, h]

/-- The position of rank `k` names the pixel of rank `k` (R160). -/
theorem PosAtRank.pixel {w : Dim} {k : Nat} {p : Pos} (hp : PosAtRank w k p) :
    pixelX p = rankX w k ∧ pixelY p = rankY w k := by
  rw [pixelX, pixelY, hp.tcol, hp.trow, hp.scol, hp.srow, rankX, rankY, Config.ctq_tile]
  omega

theorem pixelX_eq_append (p : Pos) : pixelX p = (p.tcol ++ p.scol).toNat := by
  rw [append_toNat]
  rfl

theorem pixelY_eq_append (p : Pos) : pixelY p = (p.trow ++ p.srow).toNat := by
  rw [append_toNat]
  rfl

theorem posAtRank_zero (w : Dim) : PosAtRank w 0 Pos.zero := by
  constructor <;> simp [Pos.zero]

/-- Settles O33: the pixel of rank `OCNT` is in the grid; the lookup's reply decides the step, and `OCNT` counts pixels, so does
not wrap. -/
theorem pixstepEffect : Obligations.PixstepEffect := by
  unfold Obligations.PixstepEffect
  intro s hs hpin hb hlt
  obtain ⟨hx, hy⟩ := ((hs.run hb).pos_rank hlt).pixel
  obtain ⟨hxlt, hylt⟩ := rank_lt (hs.run hb).stream.w_aligned (hs.run hb).stream.h_aligned hlt
  have hstep : fineStep s = pixStep s := (fineStep_busy hpin hb).trans (sequencerStep_of_lt hlt)
  rw [hstep]
  refine ⟨hx ▸ hxlt, hy ▸ hylt, pixelX_eq_append s.pos, pixelY_eq_append s.pos,
    fun c hg => ⟨fun slot hl => ?_, fun slot t hl => ?_, fun hl => ?_, ?_⟩⟩
  · have hreply : lookupReply s.table c = (some slot, s.table) := by rw [lookupReply, hl]
    rw [pixStep_of_appended (visitPixel_of_slot hg (by rw [hreply])), hreply, appendIndex, memWrite_one]
  · have hreply : lookupReply s.table c = (some slot, t) := by rw [lookupReply, hl]
    rw [pixStep_of_appended (visitPixel_of_slot hg (by rw [hreply])), hreply, appendIndex, memWrite_one]
  · exact pixStep_of_full (visitPixel_of_full hg (by rw [lookupReply, hl]))
  · have := pixels_lt s.w s.h
    exact BitVec.toNat_add_of_lt (show s.ocnt.toNat + 1 < 2 ^ 32 by omega)

/-! ### The walk in phase RUN -/

/-- The state of a walk, in phase RUN at position `p`: no pixel of a walk looks at `POS` or `BUSY`. -/
def runningAt (p : Pos) (s : State) : State := setBusy true { s with pos := p }

/-- The same visit, made in phase RUN at position `p`. -/
def Visit.runningAt (p : Pos) : Visit → Visit
  | .appended s => .appended (Machine.runningAt p s)
  | .full => .full
  | .noPixel => .noPixel

theorem visitPixel_runningAt (x y : Nat) (p : Pos) (s : State) :
    visitPixel x y (runningAt p s) = (visitPixel x y s).runningAt p := by
  simp only [visitPixel, runningAt, setBusy_grid, setBusy_table]
  cases gridRead s.grid x y with
  | none => rfl
  | some c =>
    dsimp only
    cases lookupOrInsert s.table c <;> rfl

/-- Phase RUN at the position of rank `k` visits the pixel of rank `k`. -/
theorem PosAtRank.visitPixel_eq {w : Dim} {k : Nat} {p : Pos} (hp : PosAtRank w k p) (s : State) :
    visitPixel (pixelX p) (pixelY p) (runningAt p s) = (visitPixel (rankX w k) (rankY w k) s).runningAt p := by
  rw [hp.pixel.1, hp.pixel.2, visitPixel_runningAt]

/-- The start step enters phase RUN at position zero (R152). -/
theorem encodeStart_of_dimensionsOk {w h : Dim} (hd : dimensionsOk w h = true) (s : State) :
    encodeStart w h s = .next (runningAt Pos.zero (startJob w h s)) := if_pos hd

/-- A `w × h` job at rank `k` of its walk. -/
structure JobAt (w h : Dim) (k : Nat) (s : State) : Prop where
  released : s.resetPin = false
  width : s.w = w
  height : s.h = h
  count : s.ocnt.toNat = k

theorem startJob_jobAt (w h : Dim) {s : State} (hpin : s.resetPin = false) : JobAt w h 0 (startJob w h s) :=
  ⟨hpin, rfl, rfl, rfl⟩

section
variable {w h : Dim} {k : Nat} {s : State} (hs : JobAt w h k s)
include hs

theorem JobAt.pixelCount_eq : pixelCount s = w.toNat * h.toNat := by rw [pixelCount, hs.width, hs.height]

/-- Each pixel appended is one rank more. -/
theorem JobAt.succ (hk : k < w.toNat * h.toNat) {x y : Nat} {s' : State} (hv : visitPixel x y s = .appended s') :
    JobAt w h (k + 1) s' := by
  have hbound := pixels_lt w h
  have hcount := hs.count
  have hsucc : (s.ocnt + 1#32).toNat = s.ocnt.toNat + 1 :=
    BitVec.toNat_add_of_lt (show s.ocnt.toNat + 1 < 2 ^ 32 by omega)
  rw [visitPixel_frame hv]
  exact ⟨hs.released, hs.width, hs.height, by rw [hsucc, hcount]⟩

/-- At rank `k` below `W × H` the step of the block is the PIXSTEP of the pixel of rank `k` (R154, R158). -/
theorem JobAt.fineStep_pixel (hk : k < w.toNat * h.toNat) (p : Pos) :
    fineStep (runningAt p s) = pixStep (runningAt p s) := by
  refine (fineStep_busy (s := runningAt p s) hs.released rfl).trans (sequencerStep_of_lt ?_)
  exact (hs.count ▸ hs.pixelCount_eq ▸ hk : s.ocnt.toNat < pixelCount s)

/-- After the last pixel it is the completion (R156, R158). -/
theorem JobAt.fineStep_end (hk : k = w.toNat * h.toNat) (p : Pos) : fineStep (runningAt p s) = .next (completeStep s) := by
  refine (fineStep_busy (s := runningAt p s) hs.released rfl).trans (sequencerStep_of_eq ?_)
  exact (hs.count.trans (hk.trans hs.pixelCount_eq.symm) : s.ocnt.toNat = pixelCount s)

variable {p : Pos} (hp : PosAtRank w k p)
include hp

theorem JobAt.fineStep_of_appended (hk : k < w.toNat * h.toNat) {s' : State}
    (hv : visitPixel (rankX w k) (rankY w k) s = .appended s') :
    fineStep (runningAt p s) = .next (runningAt (advance w h p) s') := by
  have hv' := hp.visitPixel_eq s
  rw [hv] at hv'
  rw [hs.fineStep_pixel hk, pixStep_of_appended hv', ← hs.width, ← hs.height]
  rfl

theorem JobAt.fineStep_of_full (hk : k < w.toNat * h.toNat) (hv : visitPixel (rankX w k) (rankY w k) s = .full) :
    fineStep (runningAt p s) = .next (jobDiscarded s) := by
  have hv' := hp.visitPixel_eq s
  rw [hv] at hv'
  exact (hs.fineStep_pixel hk p).trans (pixStep_of_full hv')

theorem JobAt.fineStep_of_noPixel (hk : k < w.toNat * h.toNat) (hv : visitPixel (rankX w k) (rankY w k) s = .noPixel) :
    fineStep (runningAt p s) = .refused (.gridUndefined (rankX w k) (rankY w k)) := by
  have hv' := hp.visitPixel_eq s
  rw [hv] at hv'
  rw [← hp.pixel.1, ← hp.pixel.2]
  exact (hs.fineStep_pixel hk p).trans (pixStep_of_noPixel hv')

end

/-! ### Steps in turn -/

theorem runSteps_succ_of_next {f : State → Host.Outcome State Fault Refusal} {s t : State} (h : f s = .next t) (n : Nat) :
    runSteps f (n + 1) s = runSteps f n t := by
  rw [runSteps, h]

theorem runSteps_one (f : State → Host.Outcome State Fault Refusal) (s : State) : runSteps f 1 s = f s := by
  rw [runSteps]
  cases f s <;> rfl

/-- One step more. -/
theorem runSteps_last {f : State → Host.Outcome State Fault Refusal} {n : Nat} {s t : State} (h : runSteps f n s = .next t) :
    runSteps f (n + 1) s = f t := by
  induction n generalizing s with
  | zero => cases h; exact runSteps_one f _
  | succ n ih =>
    rw [runSteps] at h ⊢
    cases hf : f s with
    | next u => rw [hf] at h; exact ih h
    | fault e => rw [hf] at h; cases h
    | refused e => rw [hf] at h; cases h

/-! ### The walk of the command level, step by step -/

/-- The pixels from rank `k` on begin with that of rank `k`. -/
theorem walkOrder_drop {w h : Dim} (hw : w.toNat % 8 = 0) (hh : h.toNat % 8 = 0) {k : Nat} (hk : k < w.toNat * h.toNat) :
    (walkOrder w h).drop k = (rankX w k, rankY w k) :: (walkOrder w h).drop (k + 1) := by
  obtain ⟨hlt, he⟩ := List.getElem?_eq_some_iff.1 (walkOrder_getElem? hw hh hk)
  rw [List.drop_eq_getElem_cons hlt, he]

/-- A walk visits some of its first pixels, all of them unless the next one ends it. -/
theorem walkPixels_cases (ps : List (Nat × Nat)) (s : State) :
    ∃ n s', walkPixels (ps.take n) s = .finished s' ∧
      ((n = ps.length ∧ walkPixels ps s = .finished s') ∨
       ∃ x y, ps[n]? = some (x, y) ∧
         ((visitPixel x y s' = .full ∧ walkPixels ps s = .full s') ∨
          (visitPixel x y s' = .noPixel ∧ walkPixels ps s = .noPixel x y))) := by
  induction ps generalizing s with
  | nil => exact ⟨0, s, rfl, .inl ⟨rfl, rfl⟩⟩
  | cons q ps ih =>
    obtain ⟨x, y⟩ := q
    cases hv : visitPixel x y s with
    | appended u =>
      obtain ⟨n, s', hpre, hend⟩ := ih u
      have hwalk : ∀ qs, walkPixels ((x, y) :: qs) s = walkPixels qs u := fun qs => by rw [walkPixels, hv]
      refine ⟨n + 1, s', by rw [List.take_succ_cons, hwalk, hpre], ?_⟩
      rw [hwalk, List.length_cons, List.getElem?_cons_succ, Nat.add_right_cancel_iff]
      exact hend
    | full => exact ⟨0, s, rfl, .inr ⟨x, y, rfl, .inl ⟨hv, by rw [walkPixels, hv]⟩⟩⟩
    | noPixel => exact ⟨0, s, rfl, .inr ⟨x, y, rfl, .inr ⟨hv, by rw [walkPixels, hv]⟩⟩⟩

/-- A walk that a full table ends leaves alone what a finished one does. -/
theorem walkPixels_full_frame {ps : List (Nat × Nat)} {s s' : State} (h : walkPixels ps s = .full s') :
    s' = { s with table := s'.table, out := s'.out, ocnt := s'.ocnt } := by
  obtain ⟨n, u, hpre, ⟨-, e⟩ | ⟨x, y, -, ⟨-, e⟩ | ⟨-, e⟩⟩⟩ := walkPixels_cases ps s <;> cases e.symm.trans h
  exact walkPixels_frame hpre

/-- The walk is refused at one of its pixels, which the grid does not define. -/
theorem walkPixels_noPixel {ps : List (Nat × Nat)} {s : State} {x y : Nat} (h : walkPixels ps s = .noPixel x y) :
    (x, y) ∈ ps ∧ gridRead s.grid x y = none := by
  obtain ⟨n, u, hpre, ⟨-, e⟩ | ⟨x', y', hn, ⟨-, e⟩ | ⟨hv, e⟩⟩⟩ := walkPixels_cases ps s <;> cases e.symm.trans h
  refine ⟨List.mem_of_getElem? hn, ?_⟩
  have hgrid : u.grid = s.grid := by rw [walkPixels_frame hpre]
  rcases visitPixel_cases x y u with ⟨hg, e⟩ | ⟨c, -, ⟨slot, -, e⟩ | ⟨slot, t, -, e⟩ | ⟨-, e⟩⟩ <;>
    cases e.symm.trans hv
  rw [← hgrid, hg]

/-- The outcome of phase RUN, given how the walk ends (R156, R157). -/
def runEnd : WalkEnd → Host.Outcome State Fault Refusal
  | .finished s => .next (completeStep s)
  | .full s => .next (jobDiscarded s)
  | .noPixel x y => .refused (.gridUndefined x y)

/-- In a state that is idle at position zero but for its walk, the completion step is the command's. -/
theorem completeStep_of_idle {s : State} (hb : s.status.busy = false) (hpos : s.pos = Pos.zero) :
    completeStep s = respond .ok 0#16 (setOvalid true s) := by
  rw [completeStep, ← hpos]
  simp only [setBusy, setOvalid, ← hb]

/-- From an idle state, phase RUN has the outcome of the atomic command. -/
theorem encodeResult_eq_runEnd {s : State} (hb : s.status.busy = false) (hpos : s.pos = Pos.zero) (ps : List (Nat × Nat)) :
    encodeResult (walkPixels ps s) = runEnd (walkPixels ps s) := by
  cases hwalk : walkPixels ps s with
  | finished s' =>
    have hframe := walkPixels_frame hwalk
    rw [encodeResult, runEnd, completeStep_of_idle (by rw [hframe]; exact hb) (by rw [hframe]; exact hpos)]
  | full s' => rfl
  | noPixel x y => rfl

section
variable {w h : Dim} (hw : w.toNat % 8 = 0) (hh : h.toNat % 8 = 0)
include hw hh

/-- The PIXSTEPs of the first `n` pixels from rank `k` on do what the walk over them does (R154, R155). -/
theorem JobAt.runSteps_walk {k n : Nat} {p : Pos} {s s' : State} (hs : JobAt w h k s)
    (hp : k < w.toNat * h.toNat → PosAtRank w k p) (hn : k + n ≤ w.toNat * h.toNat)
    (hwalk : walkPixels (((walkOrder w h).drop k).take n) s = .finished s') :
    JobAt w h (k + n) s' ∧ ∃ p', (k + n < w.toNat * h.toNat → PosAtRank w (k + n) p') ∧
      runSteps fineStep n (runningAt p s) = .next (runningAt p' s') := by
  induction n generalizing k p s with
  | zero => cases hwalk; exact ⟨hs, p, hp, rfl⟩
  | succ n ih =>
    have hk : k < w.toNat * h.toNat := by omega
    rw [walkOrder_drop hw hh hk, List.take_succ_cons, walkPixels] at hwalk
    cases hv : visitPixel (rankX w k) (rankY w k) s with
    | appended u =>
      rw [hv] at hwalk
      rw [runSteps_succ_of_next (hs.fineStep_of_appended (hp hk) hk hv), Nat.add_comm n 1, ← Nat.add_assoc]
      exact ih (hs.succ hk hv) (advance_posAtRank hw hh hk (hp hk)).1 (by omega) hwalk
    | full => rw [hv] at hwalk; cases hwalk
    | noPixel => rw [hv] at hwalk; cases hwalk

/-- Phase RUN ends as the rest of the walk does, within the pixels left plus one step (R158, R159). -/
theorem JobAt.runSteps_end {k : Nat} {p : Pos} {s : State} (hs : JobAt w h k s) (hk : k ≤ w.toNat * h.toNat)
    (hp : k < w.toNat * h.toNat → PosAtRank w k p) :
    ∃ n, n ≤ w.toNat * h.toNat - k + 1 ∧
      runSteps fineStep n (runningAt p s) = runEnd (walkPixels ((walkOrder w h).drop k) s) := by
  have hlen : ((walkOrder w h).drop k).length = w.toNat * h.toNat - k := by rw [List.length_drop, walkOrder_length hw hh]
  obtain ⟨n, s', hpre, ⟨rfl, e⟩ | ⟨x, y, hn, hend⟩⟩ := walkPixels_cases ((walkOrder w h).drop k) s
  · obtain ⟨hs', p', -, hrun⟩ := hs.runSteps_walk hw hh hp (by omega) hpre
    refine ⟨_ + 1, Nat.succ_le_succ hlen.le, ?_⟩
    rw [runSteps_last hrun, hs'.fineStep_end (by omega), e, runEnd]
  · obtain ⟨hlt, -⟩ := List.getElem?_eq_some_iff.1 hn
    have hkn : k + n < w.toNat * h.toNat := by omega
    rw [List.getElem?_drop, walkOrder_getElem? hw hh hkn] at hn
    cases hn
    obtain ⟨hs', p', hp', hrun⟩ := hs.runSteps_walk hw hh hp (by omega) hpre
    refine ⟨n + 1, by omega, ?_⟩
    rw [runSteps_last hrun]
    rcases hend with ⟨hv, e⟩ | ⟨hv, e⟩ <;> rw [e, runEnd]
    · exact hs'.fineStep_of_full (hp' hkn) hkn hv
    · exact hs'.fineStep_of_noPixel (hp' hkn) hkn hv

/-- Every pixel of the walk is in the grid. -/
theorem lt_of_mem_walkOrder {x y : Nat} (hmem : (x, y) ∈ walkOrder w h) : x < w.toNat ∧ y < h.toNat := by
  obtain ⟨k, hk⟩ := List.mem_iff_getElem?.1 hmem
  have hlt : k < w.toNat * h.toNat := walkOrder_length hw hh ▸ (List.getElem?_eq_some_iff.1 hk).1
  rw [walkOrder_getElem? hw hh hlt] at hk
  cases hk
  exact rank_lt hw hh hlt

end

/-! ### The statements of the step level -/

/-- An accepted ENCODE takes its start step (R158). -/
theorem fineStep_encode {s : State} {r : Request} {rest : List Request} {w h : Dim} (hacc : Accepts s r rest)
    (hdec : decode r.word = .command (.encode w h)) : fineStep s = encodeStart w h (taken s r rest) := by
  rw [fineStep, blockStep_accepts hacc, acceptCommand, hdec]
  rfl

theorem step_encode {s : State} {r : Request} {rest : List Request} {w h : Dim} (hacc : Accepts s r rest)
    (hdec : decode r.word = .command (.encode w h)) : step s = execEncode w h (taken s r rest) := by
  rw [step, blockStep_accepts hacc, acceptCommand, hdec]
  rfl

/-- Settles O32: the accepted command passes its dimension check and starts its job. -/
theorem encodeStartStep : Obligations.EncodeStartStep := by
  unfold Obligations.EncodeStartStep
  intro w h s r rest hacc hdec hw hh
  rw [fineStep_encode hacc hdec, encodeStart_of_dimensionsOk ((dimensionsOk_iff w h).2 ⟨hw, hh⟩)]
  rfl

/-- Settles O31: a failed dimension check is one step at both levels; else the start step enters phase RUN at rank 0, which ends
as the command's walk does. -/
theorem stepLevelAgreesWithCommandLevel : Obligations.StepLevelAgreesWithCommandLevel := by
  unfold Obligations.StepLevelAgreesWithCommandLevel
  intro s r rest w h hacc hpos hdec
  have hfine := fineStep_encode hacc hdec
  rw [step_encode hacc hdec, execEncode]
  cases hd : dimensionsOk w h with
  | false =>
    refine ⟨1, by omega, ?_⟩
    rw [runSteps_one, hfine, encodeStart, hd]
    rfl
  | true =>
    obtain ⟨hw, hh⟩ := (dimensionsOk_iff w h).1 hd
    rw [encodeStart_of_dimensionsOk hd] at hfine
    have hjob : JobAt w h 0 (startJob w h (taken s r rest)) := startJob_jobAt w h hacc.released
    obtain ⟨n, hn, hrun⟩ := hjob.runSteps_end hw hh (Nat.zero_le _) fun _ => posAtRank_zero w
    refine ⟨n + 1, by omega, ?_⟩
    rw [runSteps_succ_of_next hfine, hrun, List.drop_zero, if_pos rfl]
    exact (encodeResult_eq_runEnd (s := startJob w h (taken s r rest)) hacc.idle hpos _).symm

/-- Settles O36: a running job is at rank `OCNT` of its walk, which ends at its last pixel or at a full table. -/
theorem runPhaseEnds : Obligations.RunPhaseEnds := by
  unfold Obligations.RunPhaseEnds
  intro s hs hpin hb hcov
  have hr := hs.run hb
  have hw := hr.stream.w_aligned
  have hh := hr.stream.h_aligned
  have hjob : JobAt s.w s.h s.ocnt.toNat s := ⟨hpin, rfl, rfl, rfl⟩
  obtain ⟨n, hn, hrun⟩ := hjob.runSteps_end hw hh hr.ocnt_le hr.pos_rank
  have hself : runningAt s.pos s = s := by rw [runningAt, setBusy, ← hb]
  rw [hself] at hrun
  cases hwalk : walkPixels ((walkOrder s.w s.h).drop s.ocnt.toNat) s with
  | finished u =>
    exact ⟨n, completeStep u, hn, by rw [hrun, hwalk, runEnd], rfl, .inl rfl,
      by rw [completeStep_port, walkPixels_frame hwalk]⟩
  | full u =>
    exact ⟨n, jobDiscarded u, hn, by rw [hrun, hwalk, runEnd], rfl, .inr rfl,
      by rw [jobDiscarded, walkPixels_full_frame hwalk]⟩
  | noPixel x y =>
    obtain ⟨hmem, hnone⟩ := walkPixels_noPixel hwalk
    obtain ⟨hx, hy⟩ := lt_of_mem_walkOrder hw hh (List.mem_of_mem_drop hmem)
    have hsome := hcov x y hx hy
    rw [hnone] at hsome
    cases hsome

end Sys2Proof.Machine
end

section
/-! The table and the stream of an ENCODE in closed form: what the walk leaves after the pixels it has read
(`42_tile_encoder.md` R161 to R164). -/

namespace Sys2Proof.Machine

/-! ### Ranks of colours -/

theorem quantize_mem_distinctColors {cs : List TrueColor} {k : Nat} {c : TrueColor} (hk : cs[k]? = some c) :
    quantize c ∈ distinctColors cs :=
  mem_firstSeen.2 (.inr (List.mem_map_of_mem (List.mem_of_getElem? hk)))

theorem distinctColors_length_le (cs : List TrueColor) : (distinctColors cs).length ≤ cs.length := by
  have hsub : distinctColors cs ⊆ cs.map quantize := fun q hq => (mem_firstSeen.1 hq).resolve_left List.not_mem_nil
  simpa using (List.subperm_of_subset (distinctColors_nodup cs) hsub).length_le

/-- The first pixel's colour has rank 0. -/
theorem idxOf_distinctColors_first {cs : List TrueColor} {c : TrueColor} (h0 : cs[0]? = some c) :
    (distinctColors cs).idxOf (quantize c) = 0 := by
  rw [idxOf_distinctColors h0]
  rfl

/-- Before a pixel of some rank stands one of at least the rank before it. -/
theorem exists_earlier_rank {cs : List TrueColor} {k : Nat} {c : TrueColor} (hk : cs[k]? = some c) (hpos : 0 < k) :
    ∃ j c', j < k ∧ cs[j]? = some c' ∧
      (distinctColors cs).idxOf (quantize c) ≤ (distinctColors cs).idxOf (quantize c') + 1 := by
  have hpre : distinctColors (cs.take k) <+: distinctColors cs := (prefix_noteColor _ _).trans (prefix_distinctColors hk)
  have hrank := List.idxOf_le_length (a := quantize c) (l := distinctColors (cs.take k))
  rw [← idxOf_distinctColors hk] at hrank
  cases hr : (distinctColors cs).idxOf (quantize c) with
  | zero =>
    obtain ⟨hlt, -⟩ := List.getElem?_eq_some_iff.1 hk
    exact ⟨0, cs[0], hpos, List.getElem?_eq_getElem _, Nat.zero_le _⟩
  | succ r =>
    have hlt : r < (distinctColors (cs.take k)).length := by omega
    obtain ⟨j, c', hj, hjc, hq⟩ := mem_distinctColors_take.1 (List.getElem_mem hlt)
    refine ⟨j, c', hj, hjc, ?_⟩
    rw [hq, ← hpre.idxOf_eq_of_mem (List.getElem_mem hlt), (distinctColors_nodup _).idxOf_getElem]

/-- The colour of rank `j` has a first occurrence, before which come `j` colours, none of them it. -/
theorem exists_first_occurrence {cs : List TrueColor} {j : Nat} (hj : j < (distinctColors cs).length) :
    ∃ n c, cs[n]? = some c ∧ (distinctColors cs)[j]? = some (quantize c) ∧
      (∀ i, i < n → (cs[i]?).map quantize ≠ some (quantize c)) ∧
      quantize c ∉ distinctColors (cs.take n) ∧ (distinctColors (cs.take n)).length = j := by
  have hex : ∃ n : Nat, (cs[n]?).map quantize = some (distinctColors cs)[j] := by
    have hmem := (mem_firstSeen.1 (List.getElem_mem hj)).resolve_left List.not_mem_nil
    obtain ⟨n, hn⟩ := List.mem_iff_getElem?.1 hmem
    exact ⟨n, by rw [← List.getElem?_map, hn]⟩
  obtain ⟨c, hn, hc⟩ := Option.map_eq_some_iff.1 (Nat.find_spec hex)
  have hfirst : ∀ i, i < Nat.find hex → (cs[i]?).map quantize ≠ some (quantize c) := fun i hi => hc ▸ Nat.find_min hex hi
  have hnew : quantize c ∉ distinctColors (cs.take (Nat.find hex)) := fun hmem => by
    obtain ⟨i, c', hi, hic, hq⟩ := mem_distinctColors_take.1 hmem
    exact hfirst i hi (by rw [hic, Option.map_some, hq])
  refine ⟨Nat.find hex, c, hn, by rw [hc, List.getElem?_eq_getElem hj], hfirst, hnew, ?_⟩
  rw [← List.idxOf_of_notMem hnew, ← idxOf_distinctColors hn, hc, (distinctColors_nodup cs).idxOf_getElem]

/-! ### A table that has room for all the colours seen -/

section
variable {t : PaletteTable} {seen : List HardwareColor} (h : Follows t seen) (hle : seen.length ≤ t.cap.toNat)
include h hle

theorem Follows.nextFree_eq : t.nextFree.toNat = seen.length := by rw [h.nextFree, Nat.min_eq_left hle]

/-- `REV` is the colours seen. -/
theorem Follows.rev_eq (j : Nat) : storeRead t.rev j = seen[j]? := by
  rw [← h.inv.slotList_getElem?, h.slots, List.take_of_length_le hle]

theorem Follows.fwd_of_rank {j : Nat} {d : HardwareColor} (hj : seen[j]? = some d) :
    ∃ slot, storeRead t.fwd d.toNat = some slot ∧ slot.toNat = j := by
  have hrev : storeRead t.rev j = some d := (h.rev_eq hle j).trans hj
  have hlt : j < t.nextFree.toNat := (h.inv.rev_listed j).1 (by rw [hrev]; rfl)
  have hslot := h.inv.ofNat_slot_toNat hlt
  exact ⟨BitVec.ofNat 8 j, (h.inv.inverse d (h.inv.rev_color j d hrev) _).2 (by rw [hslot]; exact ⟨hlt, hrev⟩), hslot⟩

theorem Follows.fwd_none {hc : HardwareColor} (hnew : hc ∉ seen) : storeRead t.fwd hc.toNat = none := by
  cases hf : storeRead t.fwd hc.toNat with
  | none => rfl
  | some slot =>
    obtain ⟨-, hrev⟩ := (h.inv.inverse hc (h.inv.fwd_key _ _ hf) slot).1 hf
    rw [h.rev_eq hle] at hrev
    exact absurd (List.mem_of_getElem? hrev) hnew

end

/-! ### The walk over pixels that are read -/

/-- The grid's pixel at a position. -/
def ReadsPixel (g : Grid) (p : Nat × Nat) (c : TrueColor) : Prop := gridRead g p.1 p.2 = some c

/-- The grid's pixels of the first ranks, as the walk meets them. -/
theorem reads_walkOrder {w h : Dim} (hw : w.toNat % 8 = 0) (hh : h.toNat % 8 = 0) {g : Grid} {cs : List TrueColor}
    (hlen : cs.length ≤ w.toNat * h.toNat) (hcs : ∀ k, k < cs.length → gridRead g (rankX w k) (rankY w k) = cs[k]?) :
    List.Forall₂ (ReadsPixel g) ((walkOrder w h).take cs.length) cs := by
  refine List.forall₂_iff_get.2 ⟨by rw [List.length_take, walkOrder_length hw hh, Nat.min_eq_left hlen], fun k _ hk => ?_⟩
  obtain ⟨_, hpos⟩ := List.getElem?_eq_some_iff.1 (walkOrder_getElem? hw hh (hk.trans_le hlen))
  rw [List.get_eq_getElem, List.get_eq_getElem, List.getElem_take, hpos, ReadsPixel, hcs k hk, List.getElem?_eq_getElem hk]

/-- The pixels of the first `n` ranks of a grid that is defined. -/
theorem TraversalPixels.reads {w h : Dim} (hw : w.toNat % 8 = 0) (hh : h.toNat % 8 = 0) {g : Grid} {cs : List TrueColor}
    (hcs : TraversalPixels g w h cs) (n : Nat) : List.Forall₂ (ReadsPixel g) ((walkOrder w h).take n) (cs.take n) := by
  have hall := reads_walkOrder hw hh hcs.length.le fun k hk => hcs.pixel k (hcs.length ▸ hk)
  rw [List.take_of_length_le (by rw [walkOrder_length hw hh, hcs.length])] at hall
  exact List.forall₂_take n hall

/-- The stream of `s'` is that of `s` with the slots appended (R54). -/
structure SlotsAppended (s : State) (slots : List Slot) (s' : State) : Prop where
  kept : ∀ k, k < s.ocnt.toNat → storeRead s'.out k = storeRead s.out k
  appended : ∀ k slot, slots[k]? = some slot → storeRead s'.out (s.ocnt.toNat + k) = some slot

/-- Appending one slot, then the others. -/
theorem SlotsAppended.cons {s u s' : State} {slot : Slot} {slots : List Slot}
    (hu : u = appendIndex slot { s with table := u.table }) (hocnt : s.ocnt.toNat + 1 < 2 ^ 32) (h : SlotsAppended u slots s') : SlotsAppended s (slot :: slots) s' := by
  have hcount : u.ocnt.toNat = s.ocnt.toNat + 1 := by
    rw [hu]
    exact BitVec.toNat_add_of_lt hocnt
  have hout : u.out = storeWrite s.out s.ocnt.toNat slot := by rw [hu, appendIndex_out, memWrite_one]
  refine ⟨fun k hk => ?_, fun k v hv => ?_⟩
  · rw [h.kept k (by omega), hout, storeRead_write_other _ _ (Nat.ne_of_lt hk)]
  · cases k with
    | zero =>
      cases hv
      rw [Nat.add_zero, h.kept _ (by omega), hout, storeRead_write_same]
    | succ k =>
      rw [← h.appended k v hv, hcount, Nat.add_assoc, Nat.add_comm 1 k]

/-- Lookups that all succeed make a walk that finishes, with their table and their slots (R150). -/
theorem walkPixels_of_replies {ps : List (Nat × Nat)} {cs : List TrueColor} {s : State} {slots : List Slot}
    (hread : List.Forall₂ (ReadsPixel s.grid) ps cs) (hreply : (lookupAll s.table cs).1 = slots.map some)
    (hocnt : s.ocnt.toNat + ps.length < 2 ^ 32) :
    ∃ s', walkPixels ps s = .finished s' ∧ s'.table = (lookupAll s.table cs).2 ∧ SlotsAppended s slots s' := by
  induction ps generalizing cs s slots with
  | nil =>
    cases hread
    cases List.map_eq_nil_iff.1 hreply.symm
    exact ⟨s, rfl, rfl, fun _ _ => rfl, fun k v hv => by cases hv⟩
  | cons p ps ih =>
    obtain ⟨x, y⟩ := p
    obtain ⟨c, cs, hc, hcs, rfl⟩ := List.forall₂_cons_left_iff.1 hread
    cases slots with
    | nil => cases hreply
    | cons slot slots =>
      obtain ⟨hslot, hslots⟩ := List.cons.inj hreply
      rw [List.length_cons] at hocnt
      have hocnt' : s.ocnt.toNat + 1 < 2 ^ 32 := by omega
      have hcount : (s.ocnt + 1#32).toNat = s.ocnt.toNat + 1 := BitVec.toNat_add_of_lt hocnt'
      obtain ⟨s', hwalk, htable, happ⟩ := ih (s := appendIndex slot { s with table := (lookupReply s.table c).2 }) hcs hslots
        (by rw [appendIndex_ocnt, hcount]; omega)
      exact ⟨s', by rw [walkPixels, visitPixel_of_slot hc hslot]; exact hwalk, htable, happ.cons rfl hocnt'⟩

/-- The slot that R161 gives a colour: its rank. -/
def rankSlot (seen : List HardwareColor) (q : HardwareColor) : Slot := BitVec.ofNat 8 (seen.idxOf q)

theorem rankSlot_toNat {seen : List HardwareColor} {q : HardwareColor} (hq : q ∈ seen) (hle : seen.length ≤ 256) :
    (rankSlot seen q).toNat = seen.idxOf q := by
  have := List.idxOf_lt_length_iff.2 hq
  rw [rankSlot, BitVec.toNat_ofNat]
  omega

/-- While the colours are at most 256, every lookup of an ENCODE succeeds with its colour's rank. -/
theorem lookupAll_mode {cs : List TrueColor} (hle : (distinctColors cs).length ≤ 256) :
    (lookupAll (construct modeCapacity) cs).1 =
      (cs.map fun c => rankSlot (distinctColors cs) (quantize c)).map some := by
  obtain ⟨hreplies, -, -⟩ := (construct_follows (Nat.le_refl modeCapacity.toNat)).after_lookups cs
  rw [hreplies, List.map_map]
  refine List.map_congr_left fun c hc => ?_
  obtain ⟨k, hk⟩ := List.mem_iff_getElem?.1 hc
  have hrank : (distinctColors cs).idxOf (quantize c) < 256 :=
    (List.idxOf_lt_length_iff.2 (quantize_mem_distinctColors hk)).trans_le hle
  exact if_pos hrank

/-- An ENCODE's walk over pixels of at most 256 colours finishes; its table follows the colours, its bytes are their ranks
(R161). -/
theorem walkPixels_startJob {w h : Dim} {s : State} {ps : List (Nat × Nat)} {cs : List TrueColor}
    (hread : List.Forall₂ (ReadsPixel s.grid) ps cs) (hlen : ps.length < 2 ^ 32) (hle : (distinctColors cs).length ≤ 256) :
    ∃ u, walkPixels ps (startJob w h s) = .finished u ∧ Follows u.table (distinctColors cs) ∧ u.table.cap = modeCapacity ∧
      ∀ k c, cs[k]? = some c → storeRead u.out k = some (rankSlot (distinctColors cs) (quantize c)) := by
  obtain ⟨-, hfol, hcap⟩ := (construct_follows (Nat.le_refl modeCapacity.toNat)).after_lookups cs
  obtain ⟨u, hwalk, htable, happ⟩ := walkPixels_of_replies (s := startJob w h s) hread (lookupAll_mode hle)
    (by simpa using hlen)
  refine ⟨u, hwalk, htable ▸ hfol, htable ▸ hcap, fun k c hk => ?_⟩
  have hbyte := happ.appended k (rankSlot (distinctColors cs) (quantize c)) (by rw [List.getElem?_map, hk]; rfl)
  rwa [startJob_ocnt, BitVec.toNat_zero, Nat.zero_add] at hbyte

/-! ### The ENCODE that succeeds -/

/-- An ENCODE whose walk finishes has filled exactly the first `W × H` bytes of `OUT` and leaves the walk's table and stream. -/
theorem exec_encode_of_finished {w h : Dim} (hw : w.toNat % 8 = 0) (hh : h.toNat % 8 = 0) {s u : State}
    (hwalk : walkPixels (walkOrder w h) (startJob w h s) = .finished u) :
    exec (.encode w h) s = .next (encodeDone w h u.table u.out s) ∧
    ∀ k, (storeRead u.out k).isSome = true ↔ k < w.toNat * h.toNat := by
  have hd : dimensionsOk w h = true := (dimensionsOk_iff w h).2 ⟨hw, hh⟩
  have hlen := walkOrder_length hw hh
  obtain ⟨⟨-, -, hstream⟩, hcount⟩ :=
    walkPixels_jobInv _ (startJob_jobInv hd s) (by rw [hlen]; simpa using pixels_lt w h) hwalk
  rw [hlen, startJob_ocnt, BitVec.toNat_zero, Nat.zero_add] at hcount
  have hocnt : u.ocnt = BitVec.ofNat 32 (w.toNat * h.toNat) := by rw [← hcount, BitVec.ofNat_toNat, BitVec.setWidth_eq]
  refine ⟨?_, fun k => by rw [hstream.out_listed, hcount]⟩
  rw [exec, execEncode, if_pos hd, hwalk, encodeResult, walkPixels_frame hwalk, hocnt]
  rfl

/-- Settles O24: a grid with no pixel is a walk over no position, so it ends in the start state. -/
theorem emptyGridSucceeds : Obligations.EmptyGridSucceeds := by
  unfold Obligations.EmptyGridSucceeds
  intro w h s hw hh hempty
  have hpixels : w.toNat * h.toNat = 0 := by
    rcases hempty with rfl | rfl
    · exact Nat.zero_mul _
    · exact Nat.mul_zero _
  have hwalk : walkOrder w h = [] := List.length_eq_zero_iff.1 ((walkOrder_length hw hh).trans hpixels)
  exact (exec_encode_of_finished hw hh (u := startJob w h s) (by rw [hwalk, walkPixels])).1

/-- Settles O26: every lookup of the walk succeeds with the rank of its colour; the table follows the colours, and a new rank
is one more than a rank before it. -/
theorem encodeOutputsInClosedForm : Obligations.EncodeOutputsInClosedForm := by
  unfold Obligations.EncodeOutputsInClosedForm
  intro w h s cs hw hh hcs hle
  have hread := hcs.reads hw hh (w.toNat * h.toNat)
  rw [List.take_of_length_le (walkOrder_length hw hh).le, List.take_of_length_le hcs.length.le] at hread
  obtain ⟨u, hwalk, hfol, hcap, hbyte⟩ := walkPixels_startJob (w := w) (h := h) hread
    (by rw [walkOrder_length hw hh]; exact pixels_lt w h) hle
  obtain ⟨hexec, hlisted⟩ := exec_encode_of_finished hw hh hwalk
  have hcap256 : u.table.cap.toNat = 256 := by rw [hcap, modeCapacity_toNat]
  have hroom : (distinctColors cs).length ≤ u.table.cap.toNat := hcap256.symm ▸ hle
  have hpixel : ∀ k, k < w.toNat * h.toNat → ∃ c, cs[k]? = some c := fun k hk =>
    ⟨cs[k]'(hcs.length ▸ hk), List.getElem?_eq_getElem _⟩
  have hrank : ∀ {k c}, cs[k]? = some c →
      (rankSlot (distinctColors cs) (quantize c)).toNat = (distinctColors cs).idxOf (quantize c) :=
    fun hk => rankSlot_toNat (quantize_mem_distinctColors hk) hle
  refine ⟨_, hexec, rfl, hcap256, hfol.nextFree_eq hroom, fun j d hj => ⟨?_, hfol.fwd_of_rank hroom hj⟩,
    fun hc hnew => hfol.fwd_none hroom hnew, ?_, fun k c hk => ⟨_, hbyte k c hk, ?_⟩, fun k hk => ?_, fun hpos => ?_,
    fun k b hpos hb => ?_⟩
  · exact (hfol.rev_eq hroom j).trans hj
  · exact (BitVec.toNat_ofNat ..).trans (Nat.mod_eq_of_lt (pixels_lt w h))
  · rw [hrank hk]
    exact List.getElem?_idxOf (quantize_mem_distinctColors hk)
  · exact Option.not_isSome_iff_eq_none.1 fun h => Nat.not_lt_of_le hk ((hlisted k).1 h)
  · obtain ⟨c, h0⟩ := hpixel 0 hpos
    refine (hbyte 0 c h0).trans ?_
    rw [rankSlot, idxOf_distinctColors_first h0]
  · obtain ⟨c, hk⟩ := hpixel k ((hlisted k).1 (Option.isSome_iff_exists.2 ⟨b, hb⟩))
    obtain ⟨j, c', hj, hjc, hle'⟩ := exists_earlier_rank hk hpos
    refine ⟨j, _, hj, hbyte j c' hjc, ?_⟩
    cases (hbyte k c hk).symm.trans hb
    rwa [hrank hk, hrank hjc]

/-- Settles O30: the pixel's byte names the palette entry of its colour, and `FWD` leads from the colour back to that slot. -/
theorem streamIsInTileOrder : Obligations.StreamIsInTileOrder := by
  unfold Obligations.StreamIsInTileOrder
  intro w h s cs hw hh hcs hle
  obtain ⟨t, hexec, -, -, -, hpalette, -, -, hbyte, -⟩ := encodeOutputsInClosedForm w h s cs hw hh hcs hle
  refine ⟨t, hexec, fun tile srow scol htile hsrow hscol => ?_⟩
  have hk : 64 * tile + 8 * srow + scol < w.toNat * h.toNat := by
    rw [pixels_eq_tiles hw hh]
    omega
  have hpixel := hcs.pixel _ hk
  rw [(rank_of_tile w tile hsrow hscol).1, (rank_of_tile w tile hsrow hscol).2,
    List.getElem?_eq_getElem (hcs.length ▸ hk)] at hpixel
  obtain ⟨b, hb, hcolor⟩ := hbyte _ _ (List.getElem?_eq_getElem (hcs.length ▸ hk))
  obtain ⟨-, slot, hfwd, hslot⟩ := hpalette _ _ hcolor
  cases BitVec.eq_of_toNat_eq hslot
  exact ⟨_, b, hpixel, hb, hfwd⟩

/-! ### The ENCODE that fails -/

/-- After pixels of 256 colours, the walk of an ENCODE stops at a pixel of another one (R157, R162). -/
theorem walkPixels_to_full {w h : Dim} {s : State} {ps : List (Nat × Nat)} {cs : List TrueColor}
    (hread : List.Forall₂ (ReadsPixel s.grid) ps cs) (hlen : ps.length < 2 ^ 32) (hfull : (distinctColors cs).length = 256)
    {x y : Nat} {c : TrueColor} (hc : gridRead s.grid x y = some c) (hnew : quantize c ∉ distinctColors cs) :
    ∃ u, walkPixels ps (startJob w h s) = .finished u ∧ visitPixel x y u = .full := by
  obtain ⟨u, hwalk, hfol, hcap, -⟩ := walkPixels_startJob (w := w) (h := h) hread hlen hfull.le
  have hgrid : u.grid = s.grid := by rw [walkPixels_frame hwalk, startJob_grid]
  refine ⟨u, hwalk, visitPixel_of_full (hgrid.symm ▸ hc) ?_⟩
  rw [(hfol.after_lookup c).1, rankReply, idxOf_noteColor_of_notMem hnew, hcap, hfull]
  exact if_neg (Nat.lt_irrefl 256)

/-- Settles O28: before the first occurrence of the colour of rank 256 come 256 colours, over which the PIXSTEPs go on; the
next one finds the table full. -/
theorem encodeFailurePoint : Obligations.EncodeFailurePoint := by
  unfold Obligations.EncodeFailurePoint
  intro w h s cs hw hh hcs hmany hpin
  obtain ⟨n, c, hn, hcolor, hfirst, hnew, hcount⟩ := exists_first_occurrence hmany
  have hlt : n < w.toNat * h.toNat := hcs.length ▸ (List.getElem?_eq_some_iff.1 hn).1
  have hbound := pixels_lt w h
  obtain ⟨u, hwalk, hvisit⟩ := walkPixels_to_full (w := w) (h := h) (hcs.reads hw hh n)
    (by rw [List.length_take]; omega) hcount ((hcs.pixel n hlt).trans hn) hnew
  obtain ⟨hu, p, hp, hrun⟩ := (startJob_jobAt w h hpin).runSteps_walk hw hh (n := n) (fun _ => posAtRank_zero w)
    (by omega) hwalk
  rw [Nat.zero_add] at hu hp
  refine ⟨n, ?_, hlt, by rw [hn, hcolor]; rfl, fun i hi => by rw [hcolor]; exact hfirst i hi, _, runningAt p u,
    encodeStart_of_dimensionsOk ((dimensionsOk_iff w h).2 ⟨hw, hh⟩) s, hrun, rfl, hu.count, (hp hlt).pixel.1,
    (hp hlt).pixel.2, ?_⟩
  · have hle := distinctColors_length_le (cs.take n)
    rw [hcount, List.length_take] at hle
    omega
  · rw [hu.fineStep_of_full (hp hlt) hlt hvisit, walkPixels_frame hwalk]
    rfl

end Sys2Proof.Machine
end

section
/-! The codes that commands end with (`60_exceptions.md` R190 to R194, R202): the two failures of an ENCODE, the illegal word,
and what each command can answer. -/

namespace Sys2Proof.Machine

/-! ### Failures that change only the code -/

theorem dimensionsOk_false_iff (w h : Dim) : dimensionsOk w h = false ↔ w.toNat % 8 ≠ 0 ∨ h.toNat % 8 ≠ 0 := by
  rw [← Bool.not_eq_true, dimensionsOk_iff, Decidable.not_and_iff_or_not]

theorem exec_encode_of_misaligned {w h : Dim} (hd : dimensionsOk w h = false) (s : State) :
    exec (.encode w h) s = .next (onlyCode .dimensionError s) := by
  rw [exec, execEncode, hd]
  rfl

theorem fineExec_encode_of_misaligned {w h : Dim} (hd : dimensionsOk w h = false) (s : State) :
    fineExec (.encode w h) s = .next (onlyCode .dimensionError s) := by
  rw [fineExec, encodeStart, hd]
  rfl

/-- Settles O23: the dimension check stands before anything else that an ENCODE or its start step does. -/
theorem dimensionErrorChangesOnlyTheCode : Obligations.DimensionErrorChangesOnlyTheCode := by
  unfold Obligations.DimensionErrorChangesOnlyTheCode
  intro w h s hbad
  have hd := (dimensionsOk_false_iff w h).2 hbad
  exact ⟨exec_encode_of_misaligned hd s, fineExec_encode_of_misaligned hd s⟩

/-- Settles O43: a block step answers an illegal word whatever its legal commands do, so both levels answer it alike. -/
theorem illegalCommandEntry : Obligations.IllegalCommandEntry := by
  unfold Obligations.IllegalCommandEntry
  intro s r rest why hacc hdec
  exact ⟨onlyCode .illegalCommand (taken s r rest), blockStep_illegal hacc hdec, blockStep_illegal hacc hdec, rfl, rfl, rfl, rfl⟩

/-! ### What an ENCODE can end with -/

/-- A walk stops at the pixel that finds the table full, whatever pixels come after it (R150). -/
theorem walkPixels_of_take_full {ps : List (Nat × Nat)} {n x y : Nat} {s u : State} (hn : ps[n]? = some (x, y))
    (hpre : walkPixels (ps.take n) s = .finished u) (hvisit : visitPixel x y u = .full) : walkPixels ps s = .full u := by
  obtain ⟨hlt, he⟩ := List.getElem?_eq_some_iff.1 hn
  rw [← List.take_append_drop n ps, walkPixels_append, hpre, List.drop_eq_getElem_cons hlt, he]
  dsimp only
  rw [walkPixels, hvisit]

/-- The abort overwrites all that the job has written (R157, R193). -/
theorem exec_encode_of_full {w h : Dim} (hd : dimensionsOk w h = true) {s u : State}
    (hwalk : walkPixels (walkOrder w h) (startJob w h s) = .full u) : exec (.encode w h) s = .next (jobDiscarded s) := by
  rw [exec, execEncode, if_pos hd, hwalk, encodeResult, walkPixels_full_frame hwalk]
  rfl

/-- An ENCODE whose first pixels have more than 256 colours discards its job at the first pixel of the 257th, whatever the grid
is after these pixels (R157, R193). -/
theorem exec_encode_of_many {w h : Dim} (hw : w.toNat % 8 = 0) (hh : h.toNat % 8 = 0) {s : State} {cs : List TrueColor}
    (hlen : cs.length ≤ w.toNat * h.toNat) (hcs : ∀ k, k < cs.length → gridRead s.grid (rankX w k) (rankY w k) = cs[k]?)
    (hmany : 256 < (distinctColors cs).length) : exec (.encode w h) s = .next (jobDiscarded s) := by
  obtain ⟨n, c, hn, -, -, hnew, hcount⟩ := exists_first_occurrence hmany
  have hlt : n < cs.length := (List.getElem?_eq_some_iff.1 hn).1
  have hread := List.forall₂_take n (reads_walkOrder hw hh hlen hcs)
  rw [List.take_take, Nat.min_eq_left hlt.le] at hread
  have hbound := pixels_lt w h
  obtain ⟨u, hpre, hvisit⟩ := walkPixels_to_full (w := w) (h := h) hread (by rw [List.length_take]; omega) hcount
    ((hcs n hlt).trans hn) hnew
  exact exec_encode_of_full ((dimensionsOk_iff w h).2 ⟨hw, hh⟩)
    (walkPixels_of_take_full (walkOrder_getElem? hw hh (hlt.trans_le hlen)) hpre hvisit)

theorem TraversalPixels.exec_encode_of_many {w h : Dim} (hw : w.toNat % 8 = 0) (hh : h.toNat % 8 = 0) {s : State}
    {cs : List TrueColor} (hcs : TraversalPixels s.grid w h cs) (hmany : 256 < (distinctColors cs).length) :
    exec (.encode w h) s = .next (jobDiscarded s) :=
  Machine.exec_encode_of_many hw hh hcs.length.le (fun k hk => hcs.pixel k (hcs.length ▸ hk)) hmany

/-- On a grid that is defined an ENCODE fails with TooManyColors exactly when the grid has more than 256 colours (R150, R193). -/
theorem exec_encode_tooManyColors_iff {w h : Dim} (hw : w.toNat % 8 = 0) (hh : h.toNat % 8 = 0) {s t : State}
    {cs : List TrueColor} (hcs : TraversalPixels s.grid w h cs) (hexec : exec (.encode w h) s = .next t) :
    t.status.err = .tooManyColors ↔ 256 < (distinctColors cs).length := by
  rcases Nat.lt_or_ge 256 (distinctColors cs).length with hmany | hle
  · cases hexec.symm.trans (hcs.exec_encode_of_many hw hh hmany)
    exact iff_of_true rfl hmany
  · obtain ⟨u, hdone, hu, -⟩ := encodeOutputsInClosedForm w h s cs hw hh hcs hle
    cases hexec.symm.trans hdone
    rw [hu]
    exact iff_of_false (fun herr => by cases herr) (Nat.not_lt_of_le hle)

/-! ### The code of each command -/

section
variable {s t : State}

theorem exec_quant_err {c : TrueColor} (h : exec (.quant c) s = .next t) : t.status.err = .ok := by
  cases h
  rfl

theorem exec_pnew_err {cap : Capacity} (h : exec (.pnew cap) s = .next t) : t.status.err = .ok := by
  cases h
  rfl

theorem exec_pser_err (h : exec .pser s = .next t) : t.status.err = .ok := by
  cases h
  rfl

/-- A PLKI fails exactly on a new colour in a full table (R125, R192). -/
theorem exec_plki_err {c : TrueColor} (h : exec (.plki c) s = .next t) :
    (t.status.err = .ok ∧ ¬(storeRead s.table.fwd (quantize c).toNat = none ∧ s.table.nextFree = s.table.cap)) ∨
    (t.status.err = .capacityExceeded ∧ storeRead s.table.fwd (quantize c).toNat = none ∧ s.table.nextFree = s.table.cap) := by
  cases hf : storeRead s.table.fwd (quantize c).toNat with
  | some slot =>
    cases (exec_plki_of_slot hf).symm.trans h
    exact .inl ⟨rfl, fun hnew => by cases hnew.1⟩
  | none =>
    by_cases hfull : s.table.nextFree = s.table.cap
    · cases (exec_plki_of_full hf hfull).symm.trans h
      exact .inr ⟨rfl, rfl, hfull⟩
    · cases (exec_plki_of_new hf hfull).symm.trans h
      exact .inl ⟨rfl, fun hnew => hfull hnew.2⟩

/-- An ENCODE fails with DimensionError exactly when it does not pass its dimension check; else it succeeds or has discarded its
job (R151, R191, R193). -/
theorem exec_encode_err {w h : Dim} (hexec : exec (.encode w h) s = .next t) :
    (dimensionsOk w h = false ∧ t.status.err = .dimensionError) ∨
    (dimensionsOk w h = true ∧ (t.status.err = .ok ∨ t.status.err = .tooManyColors ∧ t = jobDiscarded s)) := by
  rcases execEncode_cases w h s with ⟨hd, e⟩ | ⟨hd, ⟨u, -, e⟩ | ⟨u, hwalk, -⟩ | ⟨x, y, -, e⟩⟩
  · cases e.symm.trans hexec
    exact .inl ⟨hd, rfl⟩
  · cases e.symm.trans hexec
    exact .inr ⟨hd, .inl rfl⟩
  · cases (exec_encode_of_full hd hwalk).symm.trans hexec
    exact .inr ⟨hd, .inr ⟨rfl, rfl⟩⟩
  · cases e.symm.trans hexec

/-- No other command discards a job (R193, R202). -/
theorem exec_of_tooManyColors {i : Instr} (hexec : exec i s = .next t) (herr : t.status.err = .tooManyColors) :
    (∃ w h, i = .encode w h) ∧ t = jobDiscarded s := by
  cases i with
  | quant c => cases (exec_quant_err hexec).symm.trans herr
  | pnew cap => cases (exec_pnew_err hexec).symm.trans herr
  | plki c => rcases exec_plki_err hexec with ⟨e, -⟩ | ⟨e, -⟩ <;> cases e.symm.trans herr
  | pser => cases (exec_pser_err hexec).symm.trans herr
  | encode w h =>
    rcases exec_encode_err hexec with ⟨-, e⟩ | ⟨-, e | ⟨-, hjob⟩⟩
    · cases e.symm.trans herr
    · cases e.symm.trans herr
    · exact ⟨⟨w, h, rfl⟩, hjob⟩

end

/-- Settles O27: a walk over more than 256 colours stops at a full table, a walk over at most 256 completes, and no other command
has this code. -/
theorem tooManyColorsDiscardsTheJob : Obligations.TooManyColorsDiscardsTheJob := by
  unfold Obligations.TooManyColorsDiscardsTheJob
  exact ⟨fun w h s cs hw hh hcs =>
      ⟨hcs.exec_encode_of_many hw hh, fun t hexec => (exec_encode_tooManyColors_iff hw hh hcs hexec).1⟩,
    fun i s t => exec_of_tooManyColors, rfl⟩

/-- Settles O51: each command's codes, with the cases of PLKI and ENCODE told apart by the table and by the dimensions and
colours. -/
theorem codesEachCommandCanEndWith : Obligations.CodesEachCommandCanEndWith := by
  unfold Obligations.CodesEachCommandCanEndWith
  refine ⟨fun i s t hexec => ⟨?_, ?_, ?_, ?_, ?_⟩, fun s r rest why hacc hdec => ⟨_, blockStep_illegal hacc hdec, rfl⟩⟩
  · rintro c rfl
    exact exec_quant_err hexec
  · rintro cap rfl
    exact exec_pnew_err hexec
  · rintro c rfl
    rcases exec_plki_err hexec with ⟨e, hroom⟩ | ⟨e, hfull⟩
    · exact ⟨.inl e, iff_of_false (fun h => by cases e.symm.trans h) hroom⟩
    · exact ⟨.inr e, iff_of_true e hfull⟩
  · rintro rfl
    exact exec_pser_err hexec
  · rintro w h rfl
    refine ⟨?_, ?_, fun cs hw hh hcs => exec_encode_tooManyColors_iff hw hh hcs hexec⟩
    · rcases exec_encode_err hexec with ⟨-, e⟩ | ⟨-, e | ⟨e, -⟩⟩
      · exact .inr (.inl e)
      · exact .inl e
      · exact .inr (.inr e)
    · rw [← dimensionsOk_false_iff]
      rcases exec_encode_err hexec with ⟨hd, e⟩ | ⟨hd, e | ⟨e, -⟩⟩ <;> simp [hd, e]

end Sys2Proof.Machine
end

section
/-! The steps of the block that follow from its definition alone: an idle block takes the command its word decodes to or holds
(`70_reset_and_hazards.md` R211, R241), a block in phase RUN takes the sequencer's step (`42_tile_encoder.md` R158), and the reset
input comes before both (R230, R231). -/

namespace Sys2Proof.Machine

/-! ### An idle block and a block that is reset -/

/-- Settles O40: a word that decodes as a command is accepted as that command, at either level. -/
theorem stepRunsTheDecodedCommand : Obligations.StepRunsTheDecodedCommand := by
  unfold Obligations.StepRunsTheDecodedCommand
  intro s r rest i hpin hidle hport hdec
  have haccept : ∀ run, blockStep run sequencerStep s = run i (taken s r rest) := fun run => by
    rw [blockStep_accepts ⟨hpin, hidle, hport⟩, acceptCommand, hdec, taken]
  exact ⟨haccept exec, haccept fineExec⟩

/-- A block with nothing to do holds, whatever its commands would do (R211). -/
theorem blockStep_of_port_nil {run : Instr → State → Host.Outcome State Fault Refusal}
    {internal : State → Host.Outcome State Fault Refusal} {s : State} (hpin : s.resetPin = false)
    (hidle : s.status.busy = false) (hport : s.port = []) : blockStep run internal s = .next s := by
  rw [blockStep, hpin, hidle, hport]
  rfl

/-- Settles O41: neither level has a step to take. -/
theorem idleBlockHoldsItsState : Obligations.IdleBlockHoldsItsState := by
  unfold Obligations.IdleBlockHoldsItsState
  exact fun s hpin hidle hport => ⟨blockStep_of_port_nil hpin hidle hport, blockStep_of_port_nil hpin hidle hport⟩

/-- The reset input is looked at before the phase and the port (R230). -/
theorem blockStep_of_reset {run : Instr → State → Host.Outcome State Fault Refusal}
    {internal : State → Host.Outcome State Fault Refusal} {s : State} (hpin : s.resetPin = true) :
    blockStep run internal s = .next (applyReset s) :=
  if_pos hpin

/-- Settles O44: `applyReset` is the reset state with the host's side as it was. -/
theorem resetInputGivesTheResetState : Obligations.ResetInputGivesTheResetState := by
  unfold Obligations.ResetInputGivesTheResetState
  exact fun s hpin => ⟨blockStep_of_reset hpin, blockStep_of_reset hpin⟩

/-! ### Phase RUN -/

theorem step_busy {s : State} (hpin : s.resetPin = false) (hb : s.status.busy = true) : step s = sequencerStep s := by
  rw [step, blockStep, hpin, hb]
  rfl

/-- Settles O35: at `OCNT = W × H` the sequencer's step is the completion. -/
theorem completionStep : Obligations.CompletionStep := by
  unfold Obligations.CompletionStep
  intro s hpin hb hend
  rw [fineStep_busy hpin hb, sequencerStep_of_eq hend]
  rfl

/-- What a step of a running ENCODE leaves alone: the host's commands, grid and reset input, and `RESULT` (R23, R241). -/
theorem sequencerStep_frame {s t : State} (h : sequencerStep s = .next t) :
    t.port = s.port ∧ t.grid = s.grid ∧ t.resetPin = s.resetPin ∧ t.result = s.result := by
  rcases sequencerStep_cases s with ⟨-, ⟨u, hu, e⟩ | ⟨-, e⟩ | ⟨-, e⟩⟩ | ⟨-, e⟩ | ⟨-, e⟩ <;> cases e.symm.trans h
  · rw [visitPixel_frame hu]
    exact ⟨rfl, rfl, rfl, rfl⟩
  · exact ⟨rfl, rfl, rfl, rfl⟩
  · exact ⟨rfl, rfl, rfl, rfl⟩

/-- Nothing can be read while `BUSY = 1` (R69, R241). -/
theorem readableLength_busy {s : State} (hb : s.status.busy = true) (sp : HostSpace) : readableLength sp s = 0 := by
  cases sp <;> simp [readableLength, hb]

/-- Settles O42: both levels take the sequencer's step, which leaves the host's side alone; the host's reads ask for `BUSY = 0`. -/
theorem runPhaseTakesNoCommand : Obligations.RunPhaseTakesNoCommand := by
  unfold Obligations.RunPhaseTakesNoCommand
  intro s hpin hb
  have hstep := step_busy hpin hb
  refine ⟨hstep.trans (fineStep_busy hpin hb).symm, hstep, fun t ht => ?_, fun r => if_pos hb, fun sp addr n hn => if_neg ?_⟩
  · obtain ⟨hport, hgrid, hreset, -⟩ := sequencerStep_frame (hstep.symm.trans ht)
    exact ⟨hport, hgrid, hreset.trans hpin⟩
  · rw [readableLength_busy hb]
    omega

end Sys2Proof.Machine
end

section
/-! Words and bytes as the spec writes them out: the command words (`30_encoding.md` R100), the assembler's lines, the `STATUS`
word (`10_state.md` R24), and 16-bit writes (`20_memory.md` R57). -/

namespace Sys2Proof.Machine

/-! ### Command words and assembler lines -/

/-- Settles O4: the decoder evaluated on each word. -/
theorem tabledWordsDecode : Obligations.TabledWordsDecode := by
  unfold Obligations.TabledWordsDecode
  exact ⟨rfl, rfl, rfl, rfl, rfl, rfl, rfl, rfl, rfl⟩

/-- ENCODE's word as a number (R88, R100). -/
theorem encode_encode_toNat (w h : Dim) :
    (encode (.encode w h)).toNat = 0x05 * 2 ^ 32 + h.toNat * 2 ^ 16 + w.toNat := by
  rw [encode_encode_eq, append_toNat, append_toNat, BitVec.toNat_ofNat]
  omega

/-- Settles O5: each command's word as a number. -/
theorem commandWordFormulas : Obligations.CommandWordFormulas := by
  unfold Obligations.CommandWordFormulas
  exact ⟨encode_quant_toNat, encode_pnew_toNat, encode_plki_toNat, rfl, encode_encode_toNat⟩

/-- Settles O6: the assembler evaluated on each line. -/
theorem assemblerReadsTabledLines : Obligations.AssemblerReadsTabledLines := by
  unfold Obligations.AssemblerReadsTabledLines
  exact ⟨rfl, rfl, rfl, rfl, rfl, rfl, rfl⟩

/-! ### The `STATUS` word -/

theorem errBits_le (code : ErrCode) : (errBits code).toNat ≤ 4 := by
  cases code <;> decide

/-- Settles O56: the word is a concatenation of its fields. -/
theorem statusWordLayout : Obligations.StatusWordLayout := by
  unfold Obligations.StatusWordLayout
  rintro ⟨err, ovalid, pvalid, busy⟩
  simp only [statusWord, BitVec.getLsbD_append]
  refine ⟨BitVec.extractLsb'_append_eq_right, errBits_le err, by simp, by simp, by simp, ?_, rfl, rfl, rfl, rfl, rfl⟩
  have := (BitVec.ofBool busy).isLt; have := (BitVec.ofBool pvalid).isLt; have := (BitVec.ofBool ovalid).isLt
  have := (errBits err).isLt
  rw [← BitVec.toNat_inj, extract_toNat]
  simp only [append_toNat, BitVec.toNat_zero]
  omega

/-! ### Little-endian writes -/

/-- The bytes of a 16-bit write, and the bytes it leaves (R57). -/
theorem storeRead_memWrite_two (m : Memory) (addr v j : Nat) : storeRead (memWrite m addr 2 v) j =
    if j = addr then some (BitVec.ofNat 8 v) else if j = addr + 1 then some (BitVec.ofNat 8 (v / 256)) else storeRead m j := by
  simp only [memWrite, storeRead_write]
  by_cases hj : j = addr
  · simp [hj]
  · rw [if_neg hj, if_neg hj]

/-- The two bytes of a HardwareColor by its fields (R57, R81). -/
theorem hardwareColor_bytes {hc : HardwareColor} (hlt : hc.toNat < 32768) :
    hc.extractLsb' 0 8 = hc.extractLsb' 5 3 ++ hc.extractLsb' 0 5 ∧
    hc.extractLsb' 8 8 = 0#1 ++ hc.extractLsb' 10 5 ++ hc.extractLsb' 8 2 := by
  simp only [← BitVec.toNat_inj, append_toNat, extract_toNat, BitVec.toNat_zero]
  omega

/-- Settles O57: the bytes of a write one by one; read back, the low byte and 256 times the high byte are the value. -/
theorem littleEndianWrites : Obligations.LittleEndianWrites := by
  unfold Obligations.LittleEndianWrites
  refine ⟨fun m addr v hv => ?_, fun m k b => ?_, fun m addr n v => memWrite_wf m addr n v, fun hc => hardwareColor_bytes⟩
  · have hlow : BitVec.ofNat 8 (v % 256) = BitVec.ofNat 8 v := BitVec.eq_of_toNat_eq (by simp)
    have hread := storeRead_memWrite_two m addr v
    have hlo : storeRead (memWrite m addr 2 v) addr = some (BitVec.ofNat 8 (v % 256)) := by rw [hread, if_pos rfl, hlow]
    have hhi : storeRead (memWrite m addr 2 v) (addr + 1) = some (BitVec.ofNat 8 (v / 256)) := by
      rw [hread, if_neg (Nat.succ_ne_self addr), if_pos rfl]
    refine ⟨hlo, hhi, ?_, fun j h0 h1 => by rw [hread, if_neg h0, if_neg h1]⟩
    simp only [memRead, hlo, hhi, BitVec.toNat_ofNat, Option.some.injEq]
    omega
  · rw [memWrite_one]
    exact ⟨storeRead_write_same m k b, fun j hj => storeRead_write_other m b hj⟩

/-! ### The pseudo-instructions -/

/-- Settles O59: the expansions are the definition of what a pseudo-instruction does, by the code the ENCODE leaves. -/
theorem pseudoInstructionExpansions : Obligations.PseudoInstructionExpansions := by
  unfold Obligations.PseudoInstructionExpansions
  refine ⟨fun w h s t hexec => ?_, fun s => rfl⟩
  have hconvert : execPseudo (.convert w h) s = if t.status.err = .ok then exec .pser t else .next t := by
    rw [execPseudo, execConvert, hexec]
  exact ⟨fun hok => hconvert.trans (if_pos hok), fun hfail => hconvert.trans (if_neg hfail)⟩

end Sys2Proof.Machine
end

section
/-! What each command leaves, said once, and the statements read off it: the response (`30_encoding.md` R91), `RESULT`
(`10_state.md` R23), the validity flags (R24, R31, R54), `CAP` and `NEXT_FREE` (R21, R22), and what a command leaves alone. -/

namespace Sys2Proof.Machine

/-! ### The outcomes of a lookup and of an ENCODE -/

theorem lookupOrInsert_eq_hit {t : PaletteTable} {c : TrueColor} {slot : Slot} (h : lookupOrInsert t c = .hit slot) :
    storeRead t.fwd (quantize c).toNat = some slot := by
  rcases lookupOrInsert_cases t c with ⟨slot', hf, e⟩ | ⟨-, -, e⟩ | ⟨-, -, e⟩ <;> cases e.symm.trans h
  exact hf

/-- A lookup inserts its colour at `NEXT_FREE` (R124). -/
theorem lookupOrInsert_eq_inserted {t u : PaletteTable} {c : TrueColor} {slot : Slot}
    (h : lookupOrInsert t c = .inserted slot u) : slot = t.nextFree.setWidth 8 ∧ u = insertColor t (quantize c) := by
  rcases lookupOrInsert_cases t c with ⟨slot', -, e⟩ | ⟨-, -, e⟩ | ⟨-, -, e⟩ <;> cases e.symm.trans h
  exact ⟨rfl, rfl⟩

/-- An insertion leaves another table: `NEXT_FREE` has changed. -/
theorem insertColor_ne (t : PaletteTable) (hc : HardwareColor) : insertColor t hc ≠ t := fun h => by
  have hnext : t.nextFree + 1#9 = t.nextFree := congrArg PaletteTable.nextFree h
  rw [← BitVec.toNat_inj, BitVec.toNat_add, BitVec.toNat_ofNat] at hnext
  have := t.nextFree.isLt
  omega

/-- A PLKI leaves its hit's slot, the table with its colour inserted, or its failure's code (R125). -/
theorem exec_plki_next {c : TrueColor} {s t : State} (hexec : exec (.plki c) s = .next t) :
    (∃ slot, lookupOrInsert s.table c = .hit slot ∧
      t = respond .ok (slot.setWidth 16) { s with result := slot.setWidth 16 }) ∨
    (∃ slot u, lookupOrInsert s.table c = .inserted slot u ∧
      t = respond .ok (slot.setWidth 16) (dropPalette { s with table := u, result := slot.setWidth 16 })) ∨
    (lookupOrInsert s.table c = .capacityExceeded ∧ t = onlyCode .capacityExceeded s) := by
  rcases execPlki_cases c s with ⟨slot, hl, e⟩ | ⟨slot, u, hl, e⟩ | ⟨hl, e⟩ <;> cases e.symm.trans hexec
  · exact .inl ⟨slot, hl, rfl⟩
  · exact .inr (.inl ⟨slot, u, hl, rfl⟩)
  · exact .inr (.inr ⟨hl, rfl⟩)

theorem visitPixel_cap {x y : Nat} {s s' : State} (h : visitPixel x y s = .appended s') : s'.table.cap = s.table.cap := by
  rcases visitPixel_cases x y s with ⟨-, e⟩ | ⟨c, -, ⟨slot, -, e⟩ | ⟨slot, t, hl, e⟩ | ⟨-, e⟩⟩ <;> cases e.symm.trans h
  · rfl
  · obtain ⟨-, rfl⟩ := lookupOrInsert_eq_inserted hl
    rfl

/-- The walk of an ENCODE keeps the capacity of its start (R150). -/
theorem walkPixels_startJob_cap {w h : Dim} {ps : List (Nat × Nat)} {s u : State}
    (hwalk : walkPixels ps (startJob w h s) = .finished u) : u.table.cap = modeCapacity :=
  (walkPixels_induction (P := fun v => v.table.cap = modeCapacity) (fun _ _ _ _ hv hvisit => (visitPixel_cap hvisit).trans hv)
    ps (startJob w h s) rfl).1 u hwalk

/-- An ENCODE that goes on leaves its failed check's code, the job done in a table of capacity 256, or the job discarded (R150). -/
theorem exec_encode_next {w h : Dim} {s t : State} (hexec : exec (.encode w h) s = .next t) :
    (dimensionsOk w h = false ∧ t = onlyCode .dimensionError s) ∨
    (dimensionsOk w h = true ∧
      ((∃ table out, table.cap = modeCapacity ∧ t = encodeDone w h table out s) ∨ t = jobDiscarded s)) := by
  rcases execEncode_cases w h s with ⟨hd, e⟩ | ⟨hd, ⟨u, hwalk, -⟩ | ⟨u, hwalk, -⟩ | ⟨x, y, -, e⟩⟩
  · cases e.symm.trans hexec
    exact .inl ⟨hd, rfl⟩
  · obtain ⟨hw, hh⟩ := (dimensionsOk_iff w h).1 hd
    cases (exec_encode_of_finished hw hh hwalk).1.symm.trans hexec
    exact .inr ⟨hd, .inl ⟨u.table, u.out, walkPixels_startJob_cap hwalk, rfl⟩⟩
  · cases (exec_encode_of_full hd hwalk).symm.trans hexec
    exact .inr ⟨hd, .inr rfl⟩
  · cases e.symm.trans hexec

/-! ### The response and `RESULT` -/

/-- A PLKI responds with its code, and with the slot it leaves its colour if it succeeds (R125). -/
theorem exec_plki_response {c : TrueColor} {s t : State} (hexec : exec (.plki c) s = .next t) :
    ∃ v, t.responses = s.responses ++ [{ code := t.status.err, value := v }] ∧
      (t.status.err = .ok → t.result = v ∧
        ∃ slot, storeRead t.table.fwd (quantize c).toNat = some slot ∧ v = slot.setWidth 16) ∧
      (t.status.err ≠ .ok → v = 0#16) := by
  rcases exec_plki_next hexec with ⟨slot, hl, rfl⟩ | ⟨slot, u, hl, rfl⟩ | ⟨hl, rfl⟩
  · exact ⟨_, rfl, fun _ => ⟨rfl, slot, lookupOrInsert_eq_hit hl, rfl⟩, fun hne => absurd rfl hne⟩
  · obtain ⟨rfl, rfl⟩ := lookupOrInsert_eq_inserted hl
    refine ⟨_, rfl, fun _ => ⟨rfl, _, ?_, rfl⟩, fun hne => absurd rfl hne⟩
    rw [respond_table, dropPalette_table, insertColor_fwd, if_pos rfl]
  · exact ⟨_, rfl, nofun, fun _ => rfl⟩

theorem exec_encode_response {w h : Dim} {s t : State} (hexec : exec (.encode w h) s = .next t) :
    t.responses = s.responses ++ [{ code := t.status.err, value := 0#16 }] := by
  rcases exec_encode_next hexec with ⟨-, rfl⟩ | ⟨-, ⟨table, out, -, rfl⟩ | rfl⟩ <;> rfl

/-- Settles O50: the response of each command. -/
theorem oneResponsePerCommand : Obligations.OneResponsePerCommand := by
  unfold Obligations.OneResponsePerCommand
  refine ⟨fun i s t hexec => ?_, fun s r rest why hacc hdec => ⟨_, blockStep_illegal hacc hdec, rfl, rfl⟩⟩
  cases i with
  | quant c =>
    cases hexec
    exact ⟨quantize c, rfl, by rintro _ ⟨⟩; exact ⟨rfl, rfl, rfl⟩, nofun, nofun, nofun, nofun, nofun⟩
  | pnew cap =>
    cases (exec_pnew cap s).symm.trans hexec
    exact ⟨0#16, rfl, nofun, nofun, nofun, fun _ _ => rfl, nofun, nofun⟩
  | plki c =>
    obtain ⟨v, hresp, hok, hfail⟩ := exec_plki_response hexec
    exact ⟨v, hresp, nofun, by rintro _ ⟨⟩; exact hok, by rintro _ ⟨⟩; exact hfail, nofun, nofun, nofun⟩
  | pser =>
    cases (exec_pser s).symm.trans hexec
    exact ⟨0#16, rfl, nofun, nofun, nofun, nofun, fun _ => rfl, nofun⟩
  | encode w h => exact ⟨0#16, exec_encode_response hexec, nofun, nofun, nofun, nofun, nofun, fun _ _ _ => rfl⟩

theorem exec_encode_result {w h : Dim} {s t : State} (hexec : exec (.encode w h) s = .next t) : t.result = s.result := by
  rcases exec_encode_next hexec with ⟨-, rfl⟩ | ⟨-, ⟨table, out, -, rfl⟩ | rfl⟩ <;> rfl

/-- A PLKI leaves `RESULT` as its lookup answers (R23, R125). -/
theorem exec_plki_result {c : TrueColor} {s t : State} (hexec : exec (.plki c) s = .next t) :
    (∀ slot, lookupOrInsert s.table c = .hit slot → t.result.toNat = slot.toNat) ∧
    (∀ slot u, lookupOrInsert s.table c = .inserted slot u → t.result.toNat = slot.toNat) ∧
    (lookupOrInsert s.table c = .capacityExceeded → t.result = s.result) := by
  have hwiden : ∀ slot : Slot, (slot.setWidth 16).toNat = slot.toNat := fun slot =>
    BitVec.toNat_setWidth_of_le (by decide)
  rcases exec_plki_next hexec with ⟨slot, hl, rfl⟩ | ⟨slot, u, hl, rfl⟩ | ⟨hl, rfl⟩ <;> rw [hl]
  · exact ⟨by rintro _ ⟨⟩; exact hwiden slot, nofun, nofun⟩
  · exact ⟨nofun, by rintro _ _ ⟨⟩; exact hwiden slot, nofun⟩
  · exact ⟨nofun, nofun, fun _ => rfl⟩

/-- Settles O52: the two commands that write `RESULT`, the others, the sequencer's step and the illegal word. -/
theorem resultWrittenOnlyByQuantAndPlki : Obligations.ResultWrittenOnlyByQuantAndPlki := by
  unfold Obligations.ResultWrittenOnlyByQuantAndPlki
  refine ⟨fun i s t hexec => ⟨?_, ?_, ?_, ?_, fun hquant hplki => ?_⟩, fun s t hstep => ?_,
    fun s r rest why hacc hdec => ⟨_, blockStep_illegal hacc hdec, rfl⟩⟩
  · rintro c rfl
    cases hexec
    rfl
  · rintro c slot rfl
    obtain ⟨hhit, -, -⟩ := exec_plki_result hexec
    exact hhit slot
  · rintro c slot u rfl
    obtain ⟨-, hinserted, -⟩ := exec_plki_result hexec
    exact hinserted slot u
  · rintro c rfl
    obtain ⟨-, -, hfull⟩ := exec_plki_result hexec
    exact hfull
  · cases i with
    | quant c => exact absurd rfl (hquant c)
    | pnew cap => cases (exec_pnew cap s).symm.trans hexec; rfl
    | plki c => exact absurd rfl (hplki c)
    | pser => cases (exec_pser s).symm.trans hexec; rfl
    | encode w h => exact exec_encode_result hexec
  · obtain ⟨-, -, -, hresult⟩ := sequencerStep_frame hstep
    exact hresult

/-! ### The validity flags -/

/-- A PLKI empties `PBUF` when it inserts, and only then (R24, R125). -/
theorem exec_plki_flags {c : TrueColor} {s t : State} (hexec : exec (.plki c) s = .next t) :
    t.status.ovalid = s.status.ovalid ∧
    (t.table = s.table → t.status.pvalid = s.status.pvalid ∧ t.pbuf = s.pbuf ∧ t.plen = s.plen) ∧
    (∀ slot u, lookupOrInsert s.table c = .inserted slot u → t.status.pvalid = false ∧ t.pbuf = [] ∧ t.plen = 0#10) := by
  rcases exec_plki_next hexec with ⟨slot, hl, rfl⟩ | ⟨slot, u, hl, rfl⟩ | ⟨hl, rfl⟩ <;> rw [hl]
  · exact ⟨rfl, fun _ => ⟨rfl, rfl, rfl⟩, nofun⟩
  · obtain ⟨-, rfl⟩ := lookupOrInsert_eq_inserted hl
    exact ⟨rfl, fun htable => absurd htable (insertColor_ne _ _), fun _ _ _ => ⟨rfl, rfl, rfl⟩⟩
  · exact ⟨rfl, fun _ => ⟨rfl, rfl, rfl⟩, nofun⟩

/-- A command that clears `OVALID` empties `OUT`, and one that clears `PVALID` empties `PBUF` (R31, R54). -/
theorem exec_cleared {i : Instr} {s t : State} (hexec : exec i s = .next t) :
    (t.status.ovalid = s.status.ovalid ∨ t.status.ovalid = true ∨ t.out = [] ∧ t.ocnt = 0#32) ∧
    (t.status.pvalid = s.status.pvalid ∨ t.status.pvalid = true ∨ t.pbuf = [] ∧ t.plen = 0#10) := by
  cases i with
  | quant c => cases hexec; exact ⟨.inl rfl, .inl rfl⟩
  | pnew cap => cases (exec_pnew cap s).symm.trans hexec; exact ⟨.inr (.inr ⟨rfl, rfl⟩), .inr (.inr ⟨rfl, rfl⟩)⟩
  | plki c =>
    rcases exec_plki_next hexec with ⟨slot, -, rfl⟩ | ⟨slot, u, -, rfl⟩ | ⟨-, rfl⟩
    · exact ⟨.inl rfl, .inl rfl⟩
    · exact ⟨.inl rfl, .inr (.inr ⟨rfl, rfl⟩)⟩
    · exact ⟨.inl rfl, .inl rfl⟩
  | pser => cases (exec_pser s).symm.trans hexec; exact ⟨.inl rfl, .inr (.inl rfl)⟩
  | encode w h =>
    rcases exec_encode_next hexec with ⟨-, rfl⟩ | ⟨-, ⟨table, out, -, rfl⟩ | rfl⟩
    · exact ⟨.inl rfl, .inl rfl⟩
    · exact ⟨.inr (.inl rfl), .inr (.inr ⟨rfl, rfl⟩)⟩
    · exact ⟨.inr (.inr ⟨rfl, rfl⟩), .inr (.inr ⟨rfl, rfl⟩)⟩

/-- Settles O53: the flags each command leaves; a flag that was set and is clear was cleared with its bytes. -/
theorem validityFlagsFollowTheTable : Obligations.ValidityFlagsFollowTheTable := by
  unfold Obligations.ValidityFlagsFollowTheTable
  intro i s t hexec
  obtain ⟨hout, hpbuf⟩ := exec_cleared hexec
  refine ⟨?_, ?_, ?_, ?_, ?_, fun hclear hset => ?_, fun hclear hset => ?_⟩
  · rintro c rfl
    cases hexec
    exact ⟨rfl, rfl⟩
  · rintro cap rfl
    cases (exec_pnew cap s).symm.trans hexec
    exact ⟨rfl, rfl⟩
  · rintro c rfl
    exact exec_plki_flags hexec
  · rintro rfl
    cases (exec_pser s).symm.trans hexec
    exact ⟨rfl, rfl⟩
  · rintro w h rfl hw hh
    rcases exec_encode_next hexec with ⟨hd, -⟩ | ⟨-, ⟨table, out, -, rfl⟩ | rfl⟩
    · cases hd.symm.trans ((dimensionsOk_iff w h).2 ⟨hw, hh⟩)
    · exact ⟨iff_of_true rfl rfl, rfl⟩
    · exact ⟨iff_of_false nofun nofun, rfl⟩
  · simpa [hclear, hset] using hout
  · simpa [hclear, hset] using hpbuf

/-! ### `CAP` and `NEXT_FREE` -/

/-- Settles O54: PNEW and an ENCODE that passes its check construct a table; of the others only an inserting PLKI changes it. -/
theorem capacityAndCountChangeOnlyAsStated : Obligations.CapacityAndCountChangeOnlyAsStated := by
  unfold Obligations.CapacityAndCountChangeOnlyAsStated
  intro i s t hs hexec
  refine ⟨?_, ?_, fun hpnew hencode => ?_, fun hpnew hplki hencode => ?_⟩
  · rintro cap rfl
    cases (exec_pnew cap s).symm.trans hexec
    exact ⟨rfl, rfl⟩
  · rintro w h rfl hw hh
    rcases exec_encode_next hexec with ⟨hd, -⟩ | ⟨-, ⟨table, out, hcap, rfl⟩ | rfl⟩
    · cases hd.symm.trans ((dimensionsOk_iff w h).2 ⟨hw, hh⟩)
    · exact (congrArg BitVec.toNat hcap).trans modeCapacity_toNat
    · rfl
  · have hkept : t.table = s.table → t.table.cap = s.table.cap ∧ s.table.nextFree.toNat ≤ t.table.nextFree.toNat ∧
        t.table.nextFree.toNat ≤ s.table.nextFree.toNat + 1 := fun htable => by
      rw [htable]
      exact ⟨rfl, Nat.le_refl _, Nat.le_succ _⟩
    cases i with
    | plki c =>
      rcases exec_plki_next hexec with ⟨slot, -, rfl⟩ | ⟨slot, u, hl, rfl⟩ | ⟨-, rfl⟩
      · exact hkept rfl
      · obtain ⟨-, hcap, hnext, -⟩ := lookupOrInsert_inserted hs hl
        exact ⟨hcap, hnext ▸ Nat.le_succ _, hnext.le⟩
      · exact hkept rfl
    | pnew cap => exact absurd rfl (hpnew cap)
    | encode w h =>
      exact hkept (exec_table_of_leavesTable (i := .encode w h) ((dimensionsOk_false_iff w h).2 (hencode w h rfl)) hexec)
    | quant c => exact hkept (exec_table_of_leavesTable (i := .quant c) trivial hexec)
    | pser => exact hkept (exec_table_of_leavesTable (i := .pser) trivial hexec)
  · refine exec_table_of_leavesTable ?_ hexec
    cases i with
    | quant c => trivial
    | pnew cap => exact absurd rfl (hpnew cap)
    | plki c => exact absurd rfl (hplki c)
    | pser => trivial
    | encode w h => exact absurd rfl (hencode w h)

/-! ### What a command leaves alone -/

/-- No command touches the host's side, and only an ENCODE that discards its job writes `POS` and `BUSY` (R157). -/
theorem exec_frame {i : Instr} {s t : State} (hexec : exec i s = .next t) :
    (t.port = s.port ∧ t.grid = s.grid ∧ t.resetPin = s.resetPin) ∧
    ((t.pos = s.pos ∧ t.status.busy = s.status.busy) ∨
      ((∃ w h, i = .encode w h) ∧ t.pos = Pos.zero ∧ t.status.busy = false)) := by
  cases i with
  | quant c => cases hexec; exact ⟨⟨rfl, rfl, rfl⟩, .inl ⟨rfl, rfl⟩⟩
  | pnew cap => cases (exec_pnew cap s).symm.trans hexec; exact ⟨⟨rfl, rfl, rfl⟩, .inl ⟨rfl, rfl⟩⟩
  | plki c =>
    rcases exec_plki_next hexec with ⟨slot, -, rfl⟩ | ⟨slot, u, -, rfl⟩ | ⟨-, rfl⟩ <;>
      exact ⟨⟨rfl, rfl, rfl⟩, .inl ⟨rfl, rfl⟩⟩
  | pser => cases (exec_pser s).symm.trans hexec; exact ⟨⟨rfl, rfl, rfl⟩, .inl ⟨rfl, rfl⟩⟩
  | encode w h =>
    rcases exec_encode_next hexec with ⟨-, rfl⟩ | ⟨-, ⟨table, out, -, rfl⟩ | rfl⟩
    · exact ⟨⟨rfl, rfl, rfl⟩, .inl ⟨rfl, rfl⟩⟩
    · exact ⟨⟨rfl, rfl, rfl⟩, .inl ⟨rfl, rfl⟩⟩
    · exact ⟨⟨rfl, rfl, rfl⟩, .inr ⟨⟨w, h, rfl⟩, rfl, rfl⟩⟩

/-- The colour commands and PSER leave the dimensions and the pixel stream. -/
theorem exec_stream {i : Instr} {s t : State} (hexec : exec i s = .next t) {c : TrueColor}
    (hi : i = .quant c ∨ i = .plki c ∨ i = .pser) : t.w = s.w ∧ t.h = s.h ∧ t.ocnt = s.ocnt ∧ t.out = s.out := by
  rcases hi with rfl | rfl | rfl
  · cases hexec; exact ⟨rfl, rfl, rfl, rfl⟩
  · rcases exec_plki_next hexec with ⟨slot, -, rfl⟩ | ⟨slot, u, -, rfl⟩ | ⟨-, rfl⟩ <;> exact ⟨rfl, rfl, rfl, rfl⟩
  · cases (exec_pser s).symm.trans hexec; exact ⟨rfl, rfl, rfl, rfl⟩

/-- Settles O55: the frame of each command; a serialization has no byte at or past `2 × CAP`. -/
theorem commandFrames : Obligations.CommandFrames := by
  unfold Obligations.CommandFrames
  intro i s t hexec
  obtain ⟨hhost, hphase⟩ := exec_frame hexec
  refine ⟨hhost, fun hno => ?_, fun hidle hpos => ?_, fun c hi => ?_, ?_, ?_, ?_, ?_, ?_⟩
  · rcases hphase with hsame | ⟨⟨w, h, e⟩, -⟩
    · exact hsame
    · exact absurd e (hno w h)
  · rcases hphase with ⟨hp, hb⟩ | ⟨-, hp, hb⟩
    · exact ⟨hb.trans hidle, hp.trans hpos⟩
    · exact ⟨hb, hp⟩
  · obtain ⟨hw, hh, hocnt, hout⟩ := exec_stream hexec hi
    exact ⟨hw, hh, hocnt, fun k => by rw [hout]⟩
  · rintro c rfl
    cases hexec
    exact ⟨rfl, fun _ => rfl⟩
  · rintro c rfl hno
    have htable : t.table = s.table := exec_table_of_leavesTable (i := .plki c) hno hexec
    obtain ⟨-, hkept, -⟩ := exec_plki_flags hexec
    obtain ⟨-, hpbuf, hplen⟩ := hkept htable
    exact ⟨htable, hplen, fun j => by rw [hpbuf]⟩
  · rintro rfl
    cases (exec_pser s).symm.trans hexec
    refine ⟨rfl, rfl, fun j hj => ?_⟩
    exact (storeRead_serialize s.table j).trans (if_neg (Nat.not_lt_of_le hj))
  · rintro w h rfl
    exact exec_encode_result hexec
  · rintro cap rfl
    cases (exec_pnew cap s).symm.trans hexec
    rfl

end Sys2Proof.Machine
end

section
/-! The walk of an ENCODE as a function of its dimensions and grid (`20_memory.md` R52, R53; `90_conflicts.md` C9), and the one
way a command stops (`93_implementation_defined.md` U6). -/

namespace Sys2Proof.Machine

/-! ### The same walk in other surroundings -/

/-- The job of `a`, its table and its stream, in the surroundings `b`: besides the grid, a walk reads and writes nothing else. -/
def withJob (b a : State) : State := { b with table := a.table, out := a.out, ocnt := a.ocnt }

/-- The same visit in the surroundings `b`. -/
def Visit.within (b : State) : Visit → Visit
  | .appended a => .appended (withJob b a)
  | .full => .full
  | .noPixel => .noPixel

/-- The same end of a walk in the surroundings `b`. -/
def WalkEnd.within (b : State) : WalkEnd → WalkEnd
  | .finished a => .finished (withJob b a)
  | .full a => .full (withJob b a)
  | .noPixel x y => .noPixel x y

theorem visitPixel_withJob {x y : Nat} {a b : State} (hgrid : gridRead b.grid x y = gridRead a.grid x y) :
    visitPixel x y (withJob b a) = (visitPixel x y a).within b := by
  simp only [visitPixel, withJob, hgrid]
  cases gridRead a.grid x y with
  | none => rfl
  | some c =>
    dsimp only
    cases lookupOrInsert a.table c <;> rfl

/-- A walk depends on the job it starts with and on the pixels it visits. -/
theorem walkPixels_withJob {ps : List (Nat × Nat)} {a b : State}
    (hgrid : ∀ x y, (x, y) ∈ ps → gridRead b.grid x y = gridRead a.grid x y) :
    walkPixels ps (withJob b a) = (walkPixels ps a).within b := by
  induction ps generalizing a with
  | nil => rfl
  | cons p ps ih =>
    obtain ⟨x, y⟩ := p
    rw [walkPixels, walkPixels, visitPixel_withJob (hgrid x y List.mem_cons_self)]
    cases hv : visitPixel x y a with
    | appended u =>
      have hu : u.grid = a.grid := by rw [visitPixel_frame hv]
      exact ih fun x' y' hmem => by rw [hu, hgrid x' y' (List.mem_cons_of_mem _ hmem)]
    | full => rfl
    | noPixel => rfl

/-- An ENCODE at the first position of its walk that the grid does not define (U6). -/
theorem exec_encode_of_noPixel {w h : Dim} (hd : dimensionsOk w h = true) {s : State} {x y : Nat}
    (hwalk : walkPixels (walkOrder w h) (startJob w h s) = .noPixel x y) :
    exec (.encode w h) s = .refused (.gridUndefined x y) := by
  rw [exec, execEncode, if_pos hd, hwalk, encodeResult]

/-- Two ENCODEs of the same image end alike, whatever state each starts in (R150, C9). -/
theorem exec_encode_of_sameImage {w h : Dim} (hd : dimensionsOk w h = true) {s s' : State}
    (himage : ∀ x y, x < w.toNat → y < h.toNat → gridRead s'.grid x y = gridRead s.grid x y) :
    (∃ table out, exec (.encode w h) s = .next (encodeDone w h table out s) ∧
      exec (.encode w h) s' = .next (encodeDone w h table out s')) ∨
    (exec (.encode w h) s = .next (jobDiscarded s) ∧ exec (.encode w h) s' = .next (jobDiscarded s')) ∨
    (∃ e, exec (.encode w h) s = .refused e ∧ exec (.encode w h) s' = .refused e) := by
  obtain ⟨hw, hh⟩ := (dimensionsOk_iff w h).1 hd
  have hwalk' : walkPixels (walkOrder w h) (startJob w h s') =
      (walkPixels (walkOrder w h) (startJob w h s)).within (startJob w h s') :=
    walkPixels_withJob (a := startJob w h s) (b := startJob w h s') fun x y hmem => by
      obtain ⟨hx, hy⟩ := lt_of_mem_walkOrder hw hh hmem
      exact himage x y hx hy
  cases hwalk : walkPixels (walkOrder w h) (startJob w h s) with
  | finished u =>
    rw [hwalk] at hwalk'
    exact .inl ⟨u.table, u.out, (exec_encode_of_finished hw hh hwalk).1, (exec_encode_of_finished hw hh hwalk').1⟩
  | full u =>
    rw [hwalk] at hwalk'
    exact .inr (.inl ⟨exec_encode_of_full hd hwalk, exec_encode_of_full hd hwalk'⟩)
  | noPixel x y =>
    rw [hwalk] at hwalk'
    exact .inr (.inr ⟨_, exec_encode_of_noPixel hd hwalk, exec_encode_of_noPixel hd hwalk'⟩)

/-- Settles O29: the first pixels alone have the walk stop. -/
theorem abortReadsNoLaterPixel : Obligations.AbortReadsNoLaterPixel := by
  unfold Obligations.AbortReadsNoLaterPixel
  exact fun w h s cs hw hh hlen hcs hmany => exec_encode_of_many hw hh hlen hcs hmany

/-- Settles O37: the job starts from an empty table and an empty stream, and ends as the same image's job does. -/
theorem encodeForgetsThePreviousJob : Obligations.EncodeForgetsThePreviousJob := by
  unfold Obligations.EncodeForgetsThePreviousJob
  intro w h s1 s2 t1 hgrid hw hh hexec
  rcases exec_encode_of_sameImage ((dimensionsOk_iff w h).2 ⟨hw, hh⟩) (s := s1) (s' := s2) fun x y _ _ => by rw [hgrid] with
    ⟨table, out, e1, e2⟩ | ⟨e1, e2⟩ | ⟨e, e1, -⟩ <;> cases e1.symm.trans hexec
  · exact ⟨_, e2, rfl, rfl, rfl, rfl, rfl, rfl, rfl, rfl, rfl, rfl⟩
  · exact ⟨_, e2, rfl, rfl, rfl, rfl, rfl, rfl, rfl, rfl, rfl, rfl⟩

/-- Settles O38: a failed dimension check reads no grid, and the walk reads no position outside the image. -/
theorem encodeReadsOnlyInsideTheGrid : Obligations.EncodeReadsOnlyInsideTheGrid := by
  unfold Obligations.EncodeReadsOnlyInsideTheGrid
  intro w h s g himage
  cases hd : dimensionsOk w h with
  | false =>
    simp only [exec_encode_of_misaligned hd]
    exact ⟨by rintro _ ⟨⟩; rfl, nofun⟩
  | true =>
    rcases exec_encode_of_sameImage hd (s := s) (s' := { s with grid := g }) himage with
      ⟨table, out, e, e'⟩ | ⟨e, e'⟩ | ⟨r, e, e'⟩ <;> rw [e, e']
    · exact ⟨by rintro _ ⟨⟩; rfl, nofun⟩
    · exact ⟨by rintro _ ⟨⟩; rfl, nofun⟩
    · exact ⟨nofun, by rintro _ ⟨⟩; rfl⟩

/-! ### Where a command stops -/

/-- A command goes on, or is an ENCODE at a position of its image that the grid does not define (U6). -/
theorem exec_continues_or_undefined (i : Instr) (s : State) :
    Continues (exec i s) ∨ ∃ w h x y, i = .encode w h ∧ exec i s = .refused (.gridUndefined x y) ∧
      x < w.toNat ∧ y < h.toNat ∧ gridRead s.grid x y = none := by
  cases i with
  | quant c => exact .inl ⟨_, rfl⟩
  | pnew cap => exact .inl ⟨_, rfl⟩
  | plki c =>
    rcases execPlki_cases c s with ⟨slot, -, e⟩ | ⟨slot, u, -, e⟩ | ⟨-, e⟩ <;> exact .inl ⟨_, e⟩
  | pser => exact .inl ⟨_, rfl⟩
  | encode w h =>
    rcases execEncode_cases w h s with ⟨-, e⟩ | ⟨hd, ⟨u, -, e⟩ | ⟨u, -, e⟩ | ⟨x, y, hwalk, e⟩⟩
    · exact .inl ⟨_, e⟩
    · exact .inl ⟨_, e⟩
    · exact .inl ⟨_, e⟩
    · obtain ⟨hw, hh⟩ := (dimensionsOk_iff w h).1 hd
      obtain ⟨hmem, hnone⟩ := walkPixels_noPixel hwalk
      obtain ⟨hx, hy⟩ := lt_of_mem_walkOrder hw hh hmem
      exact .inr ⟨w, h, x, y, rfl, e, hx, hy, hnone⟩

/-- Settles O39: a command that does not go on has met the undefined pixel it names. -/
theorem refusedOnlyByAnUndefinedPixel : Obligations.RefusedOnlyByAnUndefinedPixel := by
  unfold Obligations.RefusedOnlyByAnUndefinedPixel
  intro i s
  rcases exec_continues_or_undefined i s with ⟨t, e⟩ | ⟨w, h, x, y, hi, e, hx, hy, hnone⟩ <;> rw [e]
  · exact ⟨nofun, nofun⟩
  · exact ⟨nofun, by rintro _ ⟨⟩; exact ⟨w, h, x, y, hi, rfl, hx, hy, hnone⟩⟩

/-- With the grids of its ENCODEs defined (R232), an accepted command goes on. -/
theorem exec_continues {i : Instr} {s : State} (hcov : ∀ w h, i = .encode w h → GridCovers s.grid w h) :
    Continues (exec i s) := by
  rcases exec_continues_or_undefined i s with hnext | ⟨w, h, x, y, hi, -, hx, hy, hnone⟩
  · exact hnext
  · have hsome := hcov w h hi x y hx hy
    rw [hnone] at hsome
    cases hsome

theorem fineExec_continues {i : Instr} {s : State} (hcov : ∀ w h, i = .encode w h → GridCovers s.grid w h) :
    Continues (fineExec i s) := by
  cases i with
  | encode w h => rcases encodeStart_cases w h s with ⟨-, e⟩ | ⟨-, e⟩ <;> exact ⟨_, e⟩
  | _ => exact exec_continues hcov

/-- The pixel of a running ENCODE is in its image (R154). -/
theorem RunInv.pixel_lt {s : State} (hr : RunInv s) (hlt : s.ocnt.toNat < pixelCount s) :
    pixelX s.pos < s.w.toNat ∧ pixelY s.pos < s.h.toNat := by
  obtain ⟨hx, hy⟩ := (hr.pos_rank hlt).pixel
  rw [hx, hy]
  exact rank_lt hr.stream.w_aligned hr.stream.h_aligned hlt

/-- A running ENCODE goes on: its pixel is defined, and `OCNT` is at most `W × H`. -/
theorem sequencerStep_continues {s : State} (hr : RunInv s) (hcov : GridCovers s.grid s.w s.h) :
    Continues (sequencerStep s) := by
  rcases sequencerStep_cases s with ⟨hlt, ⟨u, -, e⟩ | ⟨-, e⟩ | ⟨hv, -⟩⟩ | ⟨-, e⟩ | ⟨hgt, -⟩
  · exact ⟨_, e⟩
  · exact ⟨_, e⟩
  · obtain ⟨hx, hy⟩ := hr.pixel_lt hlt
    obtain ⟨c, hc⟩ := Option.isSome_iff_exists.1 (hcov _ _ hx hy)
    rcases visitPixel_cases (pixelX s.pos) (pixelY s.pos) s with ⟨hnone, -⟩ | ⟨c', -, ⟨slot, -, e⟩ | ⟨slot, t, -, e⟩ | ⟨-, e⟩⟩
    · cases hnone.symm.trans hc
    all_goals cases e.symm.trans hv
  · exact ⟨_, e⟩
  · exact absurd hr.ocnt_le (Nat.not_le_of_lt hgt)

/-- A block step goes on if an accepted command with a defined grid does. -/
theorem blockStep_continues {run : Instr → State → Host.Outcome State Fault Refusal}
    (hrun : ∀ i s, (∀ w h, i = .encode w h → GridCovers s.grid w h) → Continues (run i s)) {s : State} (hs : BlockInv s)
    (hduty : HostDuty s) : Continues (blockStep run sequencerStep s) := by
  rcases blockStep_cases run sequencerStep s with
    ⟨-, e⟩ | ⟨-, hb, e⟩ | ⟨-, -, -, e⟩ | ⟨r, rest, hacc, ⟨i, hd, e⟩ | ⟨why, -, e⟩⟩ <;> rw [e]
  · exact ⟨_, rfl⟩
  · exact sequencerStep_continues (hs.run hb) (hduty.running hb)
  · exact ⟨_, rfl⟩
  · have hmem : r ∈ s.port := by rw [hacc.port]; exact List.mem_cons_self
    exact hrun i _ fun w h hi => hduty.pending r hmem w h (hi ▸ hd)
  · exact ⟨_, rfl⟩

/-- Settles O49: at each level the accepted command goes on, and so does phase RUN. -/
theorem stepGoesOnUnderTheHostsDuties : Obligations.StepGoesOnUnderTheHostsDuties := by
  unfold Obligations.StepGoesOnUnderTheHostsDuties
  exact fun s hs hduty =>
    ⟨blockStep_continues (fun _ _ => exec_continues) hs hduty, blockStep_continues (fun _ _ => fineExec_continues) hs hduty⟩

end Sys2Proof.Machine
end

section
/-! Every step keeps the four spaces in canonical form (log entries 6 and 7). -/

namespace Sys2Proof.Machine

/-- The canonical form speaks of the two memories and the table alone. -/
theorem SpacesWf.congr {s s' : State} (hs : SpacesWf s) (hout : s'.out = s.out) (hpbuf : s'.pbuf = s.pbuf)
    (htable : s'.table = s.table) : SpacesWf s' where
  out := hout ▸ hs.out
  pbuf := hpbuf ▸ hs.pbuf
  fwd := htable ▸ hs.fwd
  rev := htable ▸ hs.rev

/-- A state with a constructed table and both outputs empty lists nothing. -/
theorem SpacesWf.of_empty {s : State} {cap : Capacity} (hout : s.out = []) (hpbuf : s.pbuf = [])
    (htable : s.table = construct cap) : SpacesWf s where
  out := hout ▸ rfl
  pbuf := hpbuf ▸ rfl
  fwd := htable ▸ rfl
  rev := htable ▸ rfl

/-- An insertion writes one entry of each map. -/
theorem lookupOrInsert_inserted_wf {t u : PaletteTable} {c : TrueColor} {slot : Slot}
    (hl : lookupOrInsert t c = .inserted slot u) (hfwd : storeWf t.fwd = true) (hrev : storeWf t.rev = true) :
    storeWf u.fwd = true ∧ storeWf u.rev = true := by
  obtain ⟨-, rfl⟩ := lookupOrInsert_eq_inserted hl
  exact insertColor_wf t (quantize c) hfwd hrev

theorem visitPixel_spacesWf {x y : Nat} {s s' : State} (hs : SpacesWf s) (h : visitPixel x y s = .appended s') :
    SpacesWf s' := by
  rcases visitPixel_cases x y s with ⟨-, e⟩ | ⟨c, -, ⟨slot, -, e⟩ | ⟨slot, t, hl, e⟩ | ⟨-, e⟩⟩ <;> cases e.symm.trans h
  · exact ⟨memWrite_wf _ _ _ _ hs.out, hs.pbuf, hs.fwd, hs.rev⟩
  · obtain ⟨hfwd, hrev⟩ := lookupOrInsert_inserted_wf hl hs.fwd hs.rev
    exact ⟨memWrite_wf _ _ _ _ hs.out, hs.pbuf, hfwd, hrev⟩

theorem exec_spacesWf {i : Instr} {s t : State} (hs : SpacesWf s) (hexec : exec i s = .next t) : SpacesWf t := by
  cases i with
  | quant c => cases hexec; exact hs.congr rfl rfl rfl
  | pnew cap => cases hexec; exact .of_empty rfl rfl rfl
  | plki c =>
    rcases exec_plki_next hexec with ⟨slot, -, rfl⟩ | ⟨slot, u, hl, rfl⟩ | ⟨-, rfl⟩
    · exact hs.congr rfl rfl rfl
    · obtain ⟨hfwd, hrev⟩ := lookupOrInsert_inserted_wf hl hs.fwd hs.rev
      exact ⟨hs.out, rfl, hfwd, hrev⟩
    · exact hs.congr rfl rfl rfl
  | pser => cases hexec; exact ⟨hs.out, serialize_wf s.table, hs.fwd, hs.rev⟩
  | encode w h =>
    rcases execEncode_cases w h s with ⟨-, e⟩ | ⟨-, ⟨u, hwalk, e⟩ | ⟨u, -, e⟩ | ⟨x, y, -, e⟩⟩ <;> cases e.symm.trans hexec
    · exact hs.congr rfl rfl rfl
    · have hu : SpacesWf u := (walkPixels_induction (fun _ _ _ _ => visitPixel_spacesWf) _ (startJob w h s)
        (.of_empty rfl rfl rfl)).1 u hwalk
      exact hu.congr rfl rfl rfl
    · exact .of_empty rfl rfl rfl

theorem encodeStart_spacesWf {w h : Dim} {s t : State} (hs : SpacesWf s) (hstart : encodeStart w h s = .next t) :
    SpacesWf t := by
  rcases encodeStart_cases w h s with ⟨-, e⟩ | ⟨-, e⟩ <;> cases e.symm.trans hstart
  · exact hs.congr rfl rfl rfl
  · exact .of_empty rfl rfl rfl

theorem sequencerStep_spacesWf {s t : State} (hs : SpacesWf s) (hstep : sequencerStep s = .next t) : SpacesWf t := by
  rcases sequencerStep_cases s with ⟨-, ⟨u, hu, e⟩ | ⟨-, e⟩ | ⟨-, e⟩⟩ | ⟨-, e⟩ | ⟨-, e⟩ <;> cases e.symm.trans hstep
  · exact (visitPixel_spacesWf hs hu).congr rfl rfl rfl
  · exact .of_empty rfl rfl rfl
  · exact hs.congr rfl rfl rfl

/-- Every move keeps the canonical form. -/
theorem spacesWf_keptByMoves : KeptByMoves SpacesWf where
  reset := fun _ _ => .of_empty rfl rfl rfl
  taken := fun _ _ _ _ hs => hs.congr rfl rfl rfl
  illegal := fun _ _ hs => hs.congr rfl rfl rfl
  command := fun _ _ _ _ _ hs h => exec_spacesWf hs h
  start := fun _ _ _ _ _ hs h => encodeStart_spacesWf hs h
  run := fun _ _ _ hs h => sequencerStep_spacesWf hs h

/-- Settles O48: every move empties a space, leaves it, or writes into it. -/
theorem stepKeepsSpacesCanonical : Obligations.StepKeepsSpacesCanonical := by
  unfold Obligations.StepKeepsSpacesCanonical
  exact fun _ _ hs h => spacesWf_keptByMoves.step hs h

end Sys2Proof.Machine
end
